-- ==== Sys2Proof/Word.lean ====
section
/-! DEFINITION. The word types of the block: bytes, command and response words, port and pin numbers
(spec/00_scope.md R6, R10, R12; spec/30_encoding.md R65, R72). -/

namespace Sys2Proof

/-- A `Byte` of R10: one register value, one register address, one byte on the transport. -/
abbrev Byte := BitVec 8

/-- The 24-bit command word `CW` (R65). -/
abbrev CmdWord := BitVec 24

/-- The 12-bit response word `RW` (R72). -/
abbrev RespWord := BitVec 12

/-- The 7-bit device address (R6 `DEVADDR_W`, R20). -/
abbrev DevAddr := BitVec 7

/-- The transport's error value `E`, an 8-bit code (R161, D25). DESIGN CHOICE, log 7. -/
abbrev ErrCode := BitVec 8

/-- A port number, 0 to 16 (R6 `NPORTS`, R12). -/
abbrev Port := Fin 17

/-- A pin index, 0 to 15 (R6 `NPINS`). -/
abbrev Pin := Fin 16

/-- The device port `PD`, port 16 (R12). -/
abbrev portPD : Port := 16

/-- The pin port that serves a pin: "port `p` serves the pin handle of pin index `p`" (R12). -/
abbrev pinPort (q : Pin) : Port := q.castSucc

end Sys2Proof
end

