-- ==== Sys2Proof/Config.lean ====
section
/-! DEFINITION. What the document leaves open: the configuration record `CFG` (spec/00_scope.md R7), the register
families and banks it is indexed by (spec/20_memory.md R41, R42), the reference configuration (R9), the transport's
answers (spec/20_memory.md R49), and the uninterpreted constants that stand for what nothing fixes. -/

namespace Sys2Proof

/-- The two banks of a logically 16-bit register (R41): `low` is pins 0 to 7, `high` is pins 8 to 15. -/
inductive Bank where
  | low
  | high
  deriving DecidableEq, Repr, Inhabited

/-- The eight functional register families (R42). -/
inductive Family where
  | dir
  | data
  | pullup
  | pulldown
  | openDrain
  | intMask
  | intStatus
  | debounce
  deriving DecidableEq, Repr, Inhabited

/-- The six values of a pin's mode tag (R22, C1). -/
inductive Mode where
  | unconfigured
  | input
  | inputPullUp
  | inputPullDown
  | output
  | outputOpenDrain
  deriving DecidableEq, Repr, Inhabited

/-- The two addresses of a banked family, one per bank (R43). -/
structure BankPair where
  low  : Byte
  high : Byte
  deriving DecidableEq, Repr, Inhabited

/-- `CFG.ADDR : Family × Bank → Byte` as plain data (R7). -/
structure AddrMap where
  dir       : BankPair
  data      : BankPair
  pullup    : BankPair
  pulldown  : BankPair
  openDrain : BankPair
  intMask   : BankPair
  intStatus : BankPair
  debounce  : BankPair
  deriving DecidableEq, Repr, Inhabited

/-- `CFG.MODESEQ : Mode → list of (Family, Bit)` for the five configured modes, as plain data (R7, R115). -/
structure ModeSeqs where
  input           : List (Family × Bool)
  inputPullUp     : List (Family × Bool)
  inputPullDown   : List (Family × Bool)
  output          : List (Family × Bool)
  outputOpenDrain : List (Family × Bool)
  deriving DecidableEq, Repr, Inhabited

/-- The configuration record `CFG` (R7). A `Bit` is a `Bool`, `true` for 1. -/
structure Cfg where
  addr       : AddrMap
  chipWide   : List (String × Byte)
  dirOut     : Bool
  pullupOn   : Bool
  pulldownOn : Bool
  odOn       : Bool
  irqArmed   : Bool
  modeSeq    : ModeSeqs
  deriving DecidableEq, Repr, Inhabited

/-- The answer to a read transfer: `Ok([b])` or `Err(e)` (R47, R49). -/
inductive ReadAnswer where
  | ok  (b : Byte)
  | err (e : ErrCode)
  deriving DecidableEq, Repr, Inhabited

/-- The answer to a write transfer: `Ok` or `Err(e)` (R48, R49). -/
inductive WriteAnswer where
  | ok
  | err (e : ErrCode)
  deriving DecidableEq, Repr, Inhabited

/-- Some configuration. Nothing is known of it: it stands for every value of R7's open fields (log 6). -/
opaque Config.rawCfg : Cfg

/-- The free answer to the `n`-th read transfer, where neither the move nor a reference target gives one: "any
`Ok([b])` with any byte `b`, or any `Err(e)`" (R49, U10; log 13). -/
opaque Config.readAnswer : Nat → ReadAnswer

/-- The free answer to the `n`-th write transfer, as `Config.readAnswer` (R49, U10; log 13). -/
opaque Config.writeAnswer : Nat → WriteAnswer

/-- `REFCFG.MODESEQ` (R115), written with the polarities of a configuration. -/
def refModeSeqs (dirOut pullupOn pulldownOn odOn : Bool) : ModeSeqs where
  input           := [(.pullup, !pullupOn), (.pulldown, !pulldownOn), (.dir, !dirOut)]
  inputPullUp     := [(.pulldown, !pulldownOn), (.pullup, pullupOn), (.dir, !dirOut)]
  inputPullDown   := [(.pullup, !pullupOn), (.pulldown, pulldownOn), (.dir, !dirOut)]
  output          := [(.openDrain, !odOn), (.dir, dirOut)]
  outputOpenDrain := [(.openDrain, odOn), (.dir, dirOut)]

/-- The reference configuration `REFCFG` (R9): a test fixture and no claim about the chip. -/
def refCfg : Cfg where
  addr :=
    { dir := ⟨0x0E, 0x0F⟩, data := ⟨0x10, 0x11⟩, pullup := ⟨0x06, 0x07⟩, pulldown := ⟨0x08, 0x09⟩,
      openDrain := ⟨0x0A, 0x0B⟩, intMask := ⟨0x12, 0x13⟩, intStatus := ⟨0x18, 0x19⟩, debounce := ⟨0x23, 0x24⟩ }
  chipWide   := []
  dirOut     := false
  pullupOn   := true
  pulldownOn := true
  odOn       := true
  irqArmed   := false
  modeSeq    := refModeSeqs false true true true

end Sys2Proof
end

