-- ==== Sys2Proof/Syntax.lean ====
section
/-! DEFINITION. The 18 commands (spec/30_encoding.md R68), their formats (R66), their port classes (R71), the response
statuses (R72), the error kinds (spec/60_exceptions.md R160) and the micro-operations (spec/40_engine.md R89). -/

namespace Sys2Proof

/-- The 18 commands, one constructor per row of the opcode table, with the operands of R66 and R67. Every value of an
operand's type is legal (R67), so an `Instr` is well formed by its type. -/
inductive Instr where
  | new (a : Byte)
  | split
  | drop
  | rdreg (a : Byte)
  | wrreg (a d : Byte)
  | modbit (a : Byte) (b : BitVec 3) (v : Bool)
  | intoInput
  | intoInputPu
  | intoInputPd
  | intoOutput
  | intoOutputOd
  | setLow
  | setHigh
  | isLow
  | isHigh
  | irqDisarm
  | irqArm
  | irqStatus
  deriving DecidableEq, Repr

/-- The four formats of R66. -/
inductive Format where
  | z
  | a
  | ad
  | abv
  deriving DecidableEq, Repr

/-- Which ports accept a command (R71): the device port, the 16 pin ports, or every port. -/
inductive PortClass where
  | device
  | pin
  | any
  deriving DecidableEq, Repr

/-- The five statuses a response word can carry (R72); codes 5 to 15 are never produced (U15). -/
inductive Status where
  | ok
  | busError
  | modeError
  | initError
  | illegal
  deriving DecidableEq, Repr

/-- The four error kinds (R160 to R164), `busError` with the transport's value. -/
inductive ErrorKind where
  | busError (e : ErrCode)
  | modeError
  | initError
  | illegal
  deriving DecidableEq, Repr

/-- A micro-operation, one register transaction (R89). -/
inductive MicroOp where
  | read  (a : Byte)
  | write (a v : Byte)
  | rmw   (a : Byte) (i : BitVec 3) (v : Bool)
  deriving DecidableEq, Repr

end Sys2Proof
end

