-- ==== Sys2Proof/WellFormed.lean ====
section
/-! DEFINITION. When a configuration is well formed (spec/00_scope.md R8), and the configuration the model runs under at
reset. The commands need no check: their operand types hold exactly the values the encoding admits (R67). -/

namespace Sys2Proof

/-- The image of `CFG.ADDR`: the 16 addresses of the banked registers. -/
def Cfg.addresses (c : Cfg) : List Byte :=
  [c.addr.dir.low, c.addr.dir.high, c.addr.data.low, c.addr.data.high,
   c.addr.pullup.low, c.addr.pullup.high, c.addr.pulldown.low, c.addr.pulldown.high,
   c.addr.openDrain.low, c.addr.openDrain.high, c.addr.intMask.low, c.addr.intMask.high,
   c.addr.intStatus.low, c.addr.intStatus.high, c.addr.debounce.low, c.addr.debounce.high]

/-- R8 (a): `CFG.ADDR` is injective. -/
def Cfg.addrWF (c : Cfg) : Bool := decide c.addresses.Nodup

/-- R8 (b): the chip-wide addresses are pairwise different and none is the address of a banked register. -/
def Cfg.chipWideWF (c : Cfg) : Bool :=
  decide (c.chipWide.map Prod.snd).Nodup && decide (∀ a ∈ c.chipWide.map Prod.snd, a ∉ c.addresses)

/-- R8 (c) for one configured mode whose direction bit is `out`: one direction entry with that bit, every other entry a
pull or drive family, no family twice, 1 to 3 entries. -/
def seqWF (out : Bool) (l : List (Family × Bool)) : Bool :=
  decide ((Family.dir, out) ∈ l) && decide (l.map Prod.fst).Nodup && decide (l.length ≤ 3) &&
    decide (∀ e ∈ l, e.1 = .dir ∨ e.1 = .pullup ∨ e.1 = .pulldown ∨ e.1 = .openDrain)

/-- R8 (c) for all five configured modes. -/
def Cfg.modeSeqWF (c : Cfg) : Bool :=
  seqWF (!c.dirOut) c.modeSeq.input && seqWF (!c.dirOut) c.modeSeq.inputPullUp &&
    seqWF (!c.dirOut) c.modeSeq.inputPullDown && seqWF c.dirOut c.modeSeq.output &&
    seqWF c.dirOut c.modeSeq.outputOpenDrain

/-- `CFG` is well formed (R8): the model is defined only over such configurations. -/
def Cfg.wf (c : Cfg) : Bool := c.addrWF && c.chipWideWF && c.modeSeqWF

/-- The configuration of the machine after reset: the uninterpreted `Config.rawCfg` where that is well formed. As nothing
is known of `Config.rawCfg`, this is any well-formed configuration; `refCfg` stands here only to make the value well
formed by construction, and no claim rests on it (R9; DESIGN CHOICE, log 6). -/
def resetCfg : Cfg := if Config.rawCfg.wf then Config.rawCfg else refCfg

end Sys2Proof
end

