-- ==== Sys2Proof/Decode.lean ====
section
/-! DEFINITION. The decoder of the 24-bit command word and the encoder (spec/30_encoding.md R65 to R70). -/

namespace Sys2Proof

/-- Why a word is no command: both are answered `Illegal` at SUBMIT (R69, R70). -/
inductive DecodeError where
  /-- The opcode is one of the 14 unassigned values (R69). -/
  | unassignedOpcode (op : BitVec 5)
  /-- A field that the format requires to be zero is not zero (R70). -/
  | mustBeZero (op : BitVec 5)
  deriving DecidableEq, Repr

/-- `OP = CW[23:19]` (R65). -/
def fieldOp (cw : CmdWord) : BitVec 5 := cw.extractLsb' 19 5

/-- `BIT = CW[18:16]` (R65). -/
def fieldBit (cw : CmdWord) : BitVec 3 := cw.extractLsb' 16 3

/-- `A = CW[15:8]` (R65). -/
def fieldA (cw : CmdWord) : Byte := cw.extractLsb' 8 8

/-- `D = CW[7:0]` (R65). -/
def fieldD (cw : CmdWord) : Byte := cw.extractLsb' 0 8

/-- The must-be-zero fields of a format are zero (R66, R70). -/
def mustBeZeroHolds (f : Format) (cw : CmdWord) : Bool :=
  match f with
  | .z   => fieldBit cw == 0 && fieldA cw == 0 && fieldD cw == 0
  | .a   => fieldBit cw == 0 && fieldD cw == 0
  | .ad  => fieldBit cw == 0
  | .abv => (fieldD cw).extractLsb' 1 7 == 0

/-- A word of format `f` is the command `i` where its must-be-zero fields are zero, and is rejected by name elsewhere
(R70). -/
def ofFormat (f : Format) (cw : CmdWord) (i : Instr) : Except DecodeError Instr :=
  if mustBeZeroHolds f cw then .ok i else .error (.mustBeZero (fieldOp cw))

/-- The command a word selects (R68), total on every word; R69 and R70 name what is rejected. -/
def decode (cw : CmdWord) : Except DecodeError Instr :=
  match (fieldOp cw).toNat with
  | 1  => ofFormat .a   cw (.new (fieldA cw))
  | 2  => ofFormat .z   cw .split
  | 3  => ofFormat .z   cw .drop
  | 8  => ofFormat .a   cw (.rdreg (fieldA cw))
  | 9  => ofFormat .ad  cw (.wrreg (fieldA cw) (fieldD cw))
  | 10 => ofFormat .abv cw (.modbit (fieldA cw) (fieldBit cw) ((fieldD cw).getLsbD 0))
  | 17 => ofFormat .z   cw .intoInput
  | 18 => ofFormat .z   cw .intoInputPu
  | 19 => ofFormat .z   cw .intoInputPd
  | 20 => ofFormat .z   cw .intoOutput
  | 21 => ofFormat .z   cw .intoOutputOd
  | 24 => ofFormat .z   cw .setLow
  | 25 => ofFormat .z   cw .setHigh
  | 26 => ofFormat .z   cw .isLow
  | 27 => ofFormat .z   cw .isHigh
  | 28 => ofFormat .z   cw .irqDisarm
  | 29 => ofFormat .z   cw .irqArm
  | 30 => ofFormat .z   cw .irqStatus
  | _  => .error (.unassignedOpcode (fieldOp cw))

/-- A command word from its fields: `(OP << 19) | (BIT << 16) | (A << 8) | D` (R68). -/
def wordOf (op : BitVec 5) (bit : BitVec 3) (a d : Byte) : CmdWord :=
  (op.setWidth 24 <<< 19) ||| (bit.setWidth 24 <<< 16) ||| (a.setWidth 24 <<< 8) ||| d.setWidth 24

/-- The word of a command (R66, R68). -/
def encode : Instr → CmdWord
  | .new a        => wordOf 1 0 a 0
  | .split        => wordOf 2 0 0 0
  | .drop         => wordOf 3 0 0 0
  | .rdreg a      => wordOf 8 0 a 0
  | .wrreg a d    => wordOf 9 0 a d
  | .modbit a b v => wordOf 10 b a (if v then 1 else 0)
  | .intoInput    => wordOf 17 0 0 0
  | .intoInputPu  => wordOf 18 0 0 0
  | .intoInputPd  => wordOf 19 0 0 0
  | .intoOutput   => wordOf 20 0 0 0
  | .intoOutputOd => wordOf 21 0 0 0
  | .setLow       => wordOf 24 0 0 0
  | .setHigh      => wordOf 25 0 0 0
  | .isLow        => wordOf 26 0 0 0
  | .isHigh       => wordOf 27 0 0 0
  | .irqDisarm    => wordOf 28 0 0 0
  | .irqArm       => wordOf 29 0 0 0
  | .irqStatus    => wordOf 30 0 0 0

/-- The opcode of a command (R68). -/
def opcodeOf : Instr → BitVec 5
  | .new _         => 1
  | .split         => 2
  | .drop          => 3
  | .rdreg _       => 8
  | .wrreg _ _     => 9
  | .modbit _ _ _  => 10
  | .intoInput     => 17
  | .intoInputPu   => 18
  | .intoInputPd   => 19
  | .intoOutput    => 20
  | .intoOutputOd  => 21
  | .setLow        => 24
  | .setHigh       => 25
  | .isLow         => 26
  | .isHigh        => 27
  | .irqDisarm     => 28
  | .irqArm        => 29
  | .irqStatus     => 30

/-- The format of a command (R66). -/
def formatOf : Instr → Format
  | .new _         => .a
  | .split         => .z
  | .drop          => .z
  | .rdreg _       => .a
  | .wrreg _ _     => .ad
  | .modbit _ _ _  => .abv
  | .intoInput     => .z
  | .intoInputPu   => .z
  | .intoInputPd   => .z
  | .intoOutput    => .z
  | .intoOutputOd  => .z
  | .setLow        => .z
  | .setHigh       => .z
  | .isLow         => .z
  | .isHigh        => .z
  | .irqDisarm     => .z
  | .irqArm        => .z
  | .irqStatus     => .z

/-- The command the decoder reads from an instruction whose low `nbits` bits are those of `w` and whose other bits are 0,
numbered as the opcode table numbers them. The command word is one unit of 24 bits, so bit `n` of the table is `CW[n]`
(R65; log 22). -/
def decodeTableWord (nbits w : Nat) : Option Instr :=
  match decode (BitVec.ofNat 24 (w % 2 ^ nbits)) with
  | .ok i    => some i
  | .error _ => none

end Sys2Proof
end

