-- ==== Sys2Proof/Machine/State.lean ====
section
/-! DEFINITION. The state of the block (spec/10_state.md R15 to R25), the environment it is stepped by
(spec/00_scope.md R12; spec/20_memory.md R49, R61), the reasons a step can stop, and the state after reset
(spec/10_state.md R31). State is plain data. -/

namespace Sys2Proof.Machine

/-- The phase within a micro-operation (R17): waiting for the gate, read transfer to issue, write transfer to issue. -/
inductive Phase where
  | wait
  | rd
  | wr
  deriving DecidableEq, Repr

/-- The gate (R21). `owner` means something only while `locked`. -/
structure Gate where
  locked : Bool
  owner  : Port
  deriving DecidableEq, Repr

/-- One port's record `PORT[p]` (R23). `cw`, `k` and `ph` mean something only while `busy`. `k` leaves out the value 3,
which no rule produces (R17, U15; log 17). `tmp` holds no value except in phase `wr` of a read-modify-write (R24; log 8). -/
structure PortState where
  busy : Bool
  cw   : CmdWord
  k    : Fin 3
  ph   : Phase
  tmp  : Option Byte
  deriving DecidableEq, Repr

/-- The events of the ghost history `HIST` (R25), with the bytes in the order they cross the transport. -/
inductive Event where
  /-- `Bus(p, WTR, dev, out, answer)`. -/
  | busWtr (p : Port) (dev : DevAddr) (out : List Byte) (answer : ReadAnswer)
  /-- `Bus(p, W, dev, out, answer)`. -/
  | busW (p : Port) (dev : DevAddr) (out : List Byte) (answer : WriteAnswer)
  /-- `Resp(p, cw, rw)`. -/
  | resp (p : Port) (cw : CmdWord) (rw : RespWord)
  deriving DecidableEq, Repr

/-- The reference target `RT` (R61): `RT.DEV`, `RT.REG` as a canonical list of cells, `RT.LEVEL` with bit `p` for pin `p`,
and `RT.FAIL`. -/
structure Target where
  dev   : DevAddr
  reg   : List Host.Cell
  level : BitVec 16
  fail  : List (Nat × ErrCode)
  deriving DecidableEq, Repr

/-- One move of an agent (R12). The first four are the four step kinds of R100 to R103; a `busRd` or `busWr` carries the
environment's answer, or `none` where the reference target gives it or it is left free (R49; log 13). The last three are
the environment's: RT's own events (R64) and a change of the chip outside the block's control (R12 (c)). -/
inductive Move where
  | submit (p : Port) (cw : CmdWord)
  | acq    (p : Port)
  | busRd  (p : Port) (answer : Option ReadAnswer)
  | busWr  (p : Port) (answer : Option WriteAnswer)
  | level  (q : Pin) (v : Bool)
  | event  (q : Pin)
  | poke   (a v : Byte)
  deriving DecidableEq, Repr

/-- The environment (R12; logs 1, 13, 14): the moves to come, oldest first; the reference target, if one is attached; and
how many transfers were made, which numbers them for `RT.FAIL` and for the free answers. -/
structure Env where
  moves     : List Move
  target    : Option Target
  transfers : Nat
  deriving DecidableEq, Repr

/-- The whole state: the block's tuple of R15, the configuration it runs under (a parameter no step writes, R59; log 6) and
the environment. -/
structure State where
  live    : Vector Bool 17
  refcnt  : BitVec 5
  devaddr : DevAddr
  gate    : Gate
  mode    : Vector Mode 16
  port    : Vector PortState 17
  hist    : List Event
  cfg     : Cfg
  env     : Env
  deriving DecidableEq, Repr

/-- Why the model stops where the spec gives no step to go on with. Each of these needs a state that no run reaches (R30),
so each is safe: it makes claims unprovable and no false claim provable (logs 8, 16, 17). -/
inductive Fault where
  /-- Raised by ACQ, BUS_RD and BUS_WR: micro-operation number `K` of the plan does not exist, or is not of the kind that
  `PH` names (R30 (h), R101). Safe. -/
  | noMicroOp
  /-- Raised by a step of a busy port whose latch `CW` is no command (R16, R23). Safe. -/
  | latchNotACommand
  /-- Raised by BUS_WR of a read-modify-write while `TMP` holds no value (R24, U13). Safe. -/
  | tmpHoldsNoValue
  /-- Raised by ADVANCE where `K + 1` would be 3, which needs a plan of more than 3 micro-operations and so a configuration
  that is not well formed (R8 (c), R17). Safe. -/
  | planTooLong
  deriving DecidableEq, Repr

/-- Why there is no step at all. Safe: the spec has no step there either (R100 to R103, D32; log 4). -/
inductive Refusal where
  /-- Raised by an arm of `exec` whose instruction has no meaning yet. Safe. -/
  | notModelled (mnemonic : String)
  /-- Raised by SUBMIT on a port that is busy: the step is not enabled, and the environment never makes it (R100, R208,
  D32). Safe. -/
  | submitWhileBusy
  /-- Raised by ACQ, BUS_RD or BUS_WR of a port that is idle, is in another phase, or (for the two transfers) does not own
  the gate: the step is not enabled (R101 to R103). Safe. -/
  | stepNotEnabled
  /-- Raised by a meaning called where the next move is no step of a command; `step` never calls one there. Safe. -/
  | noCommandMove
  deriving DecidableEq, Repr

/-- The outcome of a step. -/
abbrev Result := Host.Outcome State Fault Refusal

/-- An idle port at reset: `BUSY = 0` and `TMP` without a value are the spec's (R31); the values of `CW`, `K` and `PH` are
the model's (DESIGN CHOICE, unsafe, log 12). -/
def PortState.reset : PortState := { busy := false, cw := 0, k := 0, ph := .wait, tmp := none }

/-- The environment at reset: nothing submitted, no reference target attached, no transfer made (logs 1, 13, 14). -/
def Env.reset : Env := { moves := [], target := none, transfers := 0 }

/-- The state after reset (R31, R190). `LIVE`, `REFCNT`, `GATE.LOCKED`, `BUSY`, `TMP` and `HIST` are the spec's. `DEVADDR`,
`GATE.OWNER` and `MODE` are unspecified there: their values are the model's (DESIGN CHOICE, unsafe, logs 9, 10, 11). -/
def State.reset : State where
  live    := Vector.replicate 17 false
  refcnt  := 0
  devaddr := 0
  gate    := { locked := false, owner := 0 }
  mode    := Vector.replicate 16 .unconfigured
  port    := Vector.replicate 17 PortState.reset
  hist    := []
  cfg     := resetCfg
  env     := Env.reset

end Sys2Proof.Machine
end

