-- ==== Sys2Proof/Machine/Flags.lean ====
section
/-! DEFINITION. The block has no flags and no condition codes: "every command reports its outcome only in its own response
word" (spec/10_state.md R26). So what stands here is that word: its status codes and its layout (spec/30_encoding.md
R72), the status and value of each error kind (spec/60_exceptions.md R160 to R164), and the codes of the mode tags. -/

namespace Sys2Proof.Machine

/-- The 4-bit status code (R72, R160). -/
def statusCode : Status → BitVec 4
  | .ok        => 0
  | .busError  => 1
  | .modeError => 2
  | .initError => 3
  | .illegal   => 4

/-- The response word: `RW[11:8] = STATUS`, `RW[7:0] = VAL` (R72). -/
def responseWord (st : Status) (v : Byte) : RespWord := statusCode st ++ v

/-- The status of an error kind (R160). -/
def errorStatus : ErrorKind → Status
  | .busError _ => .busError
  | .modeError  => .modeError
  | .initError  => .initError
  | .illegal    => .illegal

/-- The value of an error response: the transport's error value for a bus error, 0 for the others (R72, R161 to R164). -/
def errorValue : ErrorKind → Byte
  | .busError e => e
  | .modeError  => 0
  | .initError  => 0
  | .illegal    => 0

/-- A one-bit result in a response, extended with zero bits (R127, R128). -/
def bitValue (v : Bool) : Byte := if v then 1 else 0

/-- The 3-bit code of a mode tag (R22). -/
def modeTag : Mode → BitVec 3
  | .unconfigured    => 0
  | .input           => 1
  | .inputPullUp     => 2
  | .inputPullDown   => 3
  | .output          => 4
  | .outputOpenDrain => 5

/-- The 3-bit code of a register family (R42). -/
def familyCode : Family → BitVec 3
  | .dir       => 0
  | .data      => 1
  | .pullup    => 2
  | .pulldown  => 3
  | .openDrain => 4
  | .intMask   => 5
  | .intStatus => 6
  | .debounce  => 7

/-- The 2-bit code of a phase (R17). -/
def phaseCode : Phase → BitVec 2
  | .wait => 0
  | .rd   => 1
  | .wr   => 2

/-- The bank number (R41). -/
def bankNumber : Bank → BitVec 1
  | .low  => 0
  | .high => 1

end Sys2Proof.Machine
end

