-- ==== Sys2Proof/Machine/Memory.lean ====
section
/-! DEFINITION. A byte memory as a list of cells in canonical form: addresses strictly rising, no cell that holds what an
unlisted address reads as. The block has no memory (spec/20_memory.md R40); the one memory of the model is the register
space of the reference target, `RT.REG[0x00..0xFF]` (R61). -/

namespace Sys2Proof.Machine

/-- What an unlisted address reads as. The initial registers of RT are inputs of a test (R61, R192), so this is how a map
of 256 bytes is written down and no claim about the chip (log 14). -/
def Memory.unlisted : Byte := 0

/-- The byte at an address. -/
def Memory.read : List Host.Cell → Nat → Byte
  | [],          _ => Memory.unlisted
  | (k, w) :: m, a => if k = a then w else Memory.read m a

/-- A cell in front of a memory, left out where it holds what an unlisted address reads as. -/
def Memory.cons (a : Nat) (v : Byte) (m : List Host.Cell) : List Host.Cell :=
  if v = Memory.unlisted then m else (a, v) :: m

/-- The memory with one byte written, in canonical form again. -/
def Memory.write : List Host.Cell → Nat → Byte → List Host.Cell
  | [],          a, v => Memory.cons a v []
  | (k, w) :: m, a, v =>
    if a < k then Memory.cons a v ((k, w) :: m)
    else if a = k then Memory.cons a v m
    else (k, w) :: Memory.write m a v

/-- The canonical form from address `lo` on. -/
def Memory.wfFrom (lo : Nat) : List Host.Cell → Bool
  | []          => true
  | (k, w) :: m => decide (lo ≤ k) && decide (k < 256) && decide (w ≠ Memory.unlisted) && Memory.wfFrom (k + 1) m

/-- The canonical form of a register space of 256 bytes. -/
def Memory.wf (m : List Host.Cell) : Bool := Memory.wfFrom 0 m

end Sys2Proof.Machine
end

