-- ==== Sys2Proof/Machine/Operands.lean ====
section
/-! DEFINITION. What a command's operands reach: the register map (spec/20_memory.md R41 to R44), `merge`
(spec/40_engine.md R88), the plan of every command (R90), its port class (spec/30_encoding.md R71) and the mode an
`INTO_*` command installs (spec/42_pin_mode.md R115). -/

namespace Sys2Proof.Machine

/-- The pin index of a pin port, and none for `PD` (R12). -/
def pinOf (p : Port) : Option Pin := if h : p.val < 16 then some ⟨p.val, h⟩ else none

/-- `bank(p) = p div 8` (R41). -/
def bank (q : Pin) : Bank := if q.val / 8 = 0 then .low else .high

/-- `bitpos(p) = p mod 8` (R41). -/
def bitpos (q : Pin) : BitVec 3 := BitVec.ofNat 3 (q.val % 8)

/-- The pair of addresses of a family (R7, R43). -/
def familyPair (c : Cfg) : Family → BankPair
  | .dir       => c.addr.dir
  | .data      => c.addr.data
  | .pullup    => c.addr.pullup
  | .pulldown  => c.addr.pulldown
  | .openDrain => c.addr.openDrain
  | .intMask   => c.addr.intMask
  | .intStatus => c.addr.intStatus
  | .debounce  => c.addr.debounce

/-- `CFG.ADDR(f, k)` (R43). -/
def addrOf (c : Cfg) (f : Family) : Bank → Byte
  | .low  => (familyPair c f).low
  | .high => (familyPair c f).high

/-- `REGMAP(p, f) = (CFG.ADDR(f, bank(p)), bitpos(p))` (R43). -/
def regmap (c : Cfg) (q : Pin) (f : Family) : Byte × BitVec 3 := (addrOf c f (bank q), bitpos q)

/-- What the register map says an address is: "the map marks these distinctly" (R43). -/
inductive RegisterKind where
  | banked (f : Family) (k : Bank)
  | chipWide (name : String)
  | unmapped
  deriving DecidableEq, Repr

/-- The eight families, in the order of their codes (R42). -/
def families : List Family := [.dir, .data, .pullup, .pulldown, .openDrain, .intMask, .intStatus, .debounce]

/-- The kind of a register address (R43). -/
def registerKind (c : Cfg) (a : Byte) : RegisterKind :=
  match families.find? (fun f => addrOf c f .low == a) with
  | some f => .banked f .low
  | none =>
    match families.find? (fun f => addrOf c f .high == a) with
    | some f => .banked f .high
    | none =>
      match c.chipWide.find? (fun e => e.2 == a) with
      | some e => .chipWide e.1
      | none   => .unmapped

/-- `merge(b, i, v)`: `b | (1 << i)` or `b & ~(1 << i)`, within 8 bits (R88). -/
def merge (b : Byte) (i : BitVec 3) (v : Bool) : Byte :=
  if v then b ||| (1#8 <<< i.toNat) else b &&& ~~~(1#8 <<< i.toNat)

/-- `CFG.MODESEQ(m)`: the register operations of a mode change (R7, R115). `Unconfigured` is installed by no command. -/
def modeSeqOf (c : Cfg) : Mode → List (Family × Bool)
  | .unconfigured    => []
  | .input           => c.modeSeq.input
  | .inputPullUp     => c.modeSeq.inputPullUp
  | .inputPullDown   => c.modeSeq.inputPullDown
  | .output          => c.modeSeq.output
  | .outputOpenDrain => c.modeSeq.outputOpenDrain

/-- The plan of a pin command, from the pin of the port; a port that has no pin has no pin plan. -/
def pinPlan (p : Port) (f : Pin → List MicroOp) : List MicroOp :=
  match pinOf p with
  | some q => f q
  | none   => []

/-- `RMW(CFG.ADDR(f, bank(p)), bitpos(p), v)` for the pin of a port. -/
def rmwPlan (c : Cfg) (f : Family) (v : Bool) (p : Port) : List MicroOp :=
  pinPlan p fun q => [.rmw (addrOf c f (bank q)) (bitpos q) v]

/-- `READ(CFG.ADDR(f, bank(p)))` for the pin of a port. -/
def readPlan (c : Cfg) (f : Family) (p : Port) : List MicroOp :=
  pinPlan p fun q => [.read (addrOf c f (bank q))]

/-- The plan of the `INTO_*` command that installs `m`: one read-modify-write per entry of `CFG.MODESEQ(m)`, in order
(R115). -/
def intoPlan (c : Cfg) (m : Mode) (p : Port) : List MicroOp :=
  pinPlan p fun q => (modeSeqOf c m).map fun e => .rmw (addrOf c e.1 (bank q)) (bitpos q) e.2

/-- `PLAN(p, cw)` as the table of R90 gives it, for the command of the word: "a function of the port, the word and `CFG`
alone". -/
def plan (c : Cfg) (p : Port) : Instr → List MicroOp
  | .new _        => []
  | .split        => []
  | .drop         => []
  | .rdreg a      => [.read a]
  | .wrreg a d    => [.write a d]
  | .modbit a b v => [.rmw a b v]
  | .intoInput    => intoPlan c .input p
  | .intoInputPu  => intoPlan c .inputPullUp p
  | .intoInputPd  => intoPlan c .inputPullDown p
  | .intoOutput   => intoPlan c .output p
  | .intoOutputOd => intoPlan c .outputOpenDrain p
  | .setLow       => rmwPlan c .data false p
  | .setHigh      => rmwPlan c .data true p
  | .isLow        => readPlan c .data p
  | .isHigh       => readPlan c .data p
  | .irqDisarm    => rmwPlan c .intMask (!c.irqArmed) p
  | .irqArm       => rmwPlan c .intMask c.irqArmed p
  | .irqStatus    => readPlan c .intStatus p

/-- The port class of a command (R71). -/
def portClass : Instr → PortClass
  | .new _        => .device
  | .split        => .device
  | .drop         => .any
  | .rdreg _      => .device
  | .wrreg _ _    => .device
  | .modbit _ _ _ => .device
  | .intoInput    => .pin
  | .intoInputPu  => .pin
  | .intoInputPd  => .pin
  | .intoOutput   => .pin
  | .intoOutputOd => .pin
  | .setLow       => .pin
  | .setHigh      => .pin
  | .isLow        => .pin
  | .isHigh       => .pin
  | .irqDisarm    => .pin
  | .irqArm       => .pin
  | .irqStatus    => .pin

/-- Whether a port is of a class (R71, R174). -/
def classAdmits (cls : PortClass) (p : Port) : Bool :=
  match cls with
  | .device => decide (p = portPD)
  | .pin    => decide (p ≠ portPD)
  | .any    => true

/-- The mode tag a completed command installs (R115, R104). -/
def installs : Instr → Option Mode
  | .new _        => none
  | .split        => none
  | .drop         => none
  | .rdreg _      => none
  | .wrreg _ _    => none
  | .modbit _ _ _ => none
  | .intoInput    => some .input
  | .intoInputPu  => some .inputPullUp
  | .intoInputPd  => some .inputPullDown
  | .intoOutput   => some .output
  | .intoOutputOd => some .outputOpenDrain
  | .setLow       => none
  | .setHigh      => none
  | .isLow        => none
  | .isHigh       => none
  | .irqDisarm    => none
  | .irqArm       => none
  | .irqStatus    => none

end Sys2Proof.Machine
end

