-- ==== Sys2Proof/Machine/Target.lean ====
section
/-! DEFINITION. The reference target RT (spec/20_memory.md R61 to R64): the deterministic environment of the test vectors,
"this spec's construction and says nothing about the chip" (R61). -/

namespace Sys2Proof.Machine

/-- `RT.REG[a]`. -/
def targetReg (t : Target) (a : Byte) : Byte := Memory.read t.reg a.toNat

/-- `RT.REG[a] <- v`. -/
def targetSetReg (t : Target) (a v : Byte) : Target := { t with reg := Memory.write t.reg a.toNat v }

/-- The levels of the eight pins of a bank: bit `i` is `RT.LEVEL[8*k + i]` (R63). -/
def levelByte (t : Target) : Bank → Byte
  | .low  => t.level.extractLsb' 0 8
  | .high => t.level.extractLsb' 8 8

/-- The bits of a bank whose direction bit says output: `RT.REG[CFG.ADDR(DIR, k)][i] = CFG.DIR_OUT` (R63). -/
def outputMask (c : Cfg) (t : Target) (k : Bank) : Byte :=
  if c.dirOut then targetReg t (addrOf c .dir k) else ~~~targetReg t (addrOf c .dir k)

/-- What a read of a data register returns: the latch of an output pin, the level of another (R63 (a)). -/
def dataRead (c : Cfg) (t : Target) (k : Bank) : Byte :=
  (targetReg t (addrOf c .data k) &&& outputMask c t k) ||| (levelByte t k &&& ~~~outputMask c t k)

/-- RT's answer to a write that is the `n`-th transfer (R62). -/
def targetWrite (t : Target) (n : Nat) (dev : DevAddr) (a v : Byte) : WriteAnswer × Target :=
  match t.fail.lookup n with
  | some e => (.err e, t)
  | none   => if dev = t.dev then (.ok, targetSetReg t a v) else (.err 0x01, t)

/-- RT's answer to a read at an address, once it answers: R63 (a), (b), (c) in that order. -/
def targetReadReg (c : Cfg) (t : Target) (a : Byte) : Byte × Target :=
  if a = addrOf c .data .low then (dataRead c t .low, t)
  else if a = addrOf c .data .high then (dataRead c t .high, t)
  else if a = addrOf c .intStatus .low ∨ a = addrOf c .intStatus .high then (targetReg t a, targetSetReg t a 0x00)
  else (targetReg t a, t)

/-- RT's answer to a read that is the `n`-th transfer (R63). -/
def targetRead (c : Cfg) (t : Target) (n : Nat) (dev : DevAddr) (a : Byte) : ReadAnswer × Target :=
  match t.fail.lookup n with
  | some e => (.err e, t)
  | none =>
    if dev = t.dev then (.ok (targetReadReg c t a).1, (targetReadReg c t a).2) else (.err 0x01, t)

/-- RT's event `LEVEL(p, v)`: `RT.LEVEL[p] <- v` (R64). -/
def targetLevel (t : Target) (q : Pin) (v : Bool) : Target :=
  { t with level := if v then t.level ||| (1#16 <<< q.val) else t.level &&& ~~~(1#16 <<< q.val) }

/-- RT's event `EVENT(p)`: the pin's status bit is set where its mask bit is armed (R64). -/
def targetEvent (c : Cfg) (t : Target) (q : Pin) : Target :=
  if (targetReg t (addrOf c .intMask (bank q))).getLsbD (bitpos q).toNat = c.irqArmed then
    targetSetReg t (addrOf c .intStatus (bank q))
      (merge (targetReg t (addrOf c .intStatus (bank q))) (bitpos q) true)
  else t

/-- The logical 16-bit view of a family, a reading aid: `{byte at the HIGH address, byte at the LOW address}` (R44). -/
def view16 (c : Cfg) (t : Target) (f : Family) : BitVec 16 :=
  targetReg t (addrOf c f .high) ++ targetReg t (addrOf c f .low)

end Sys2Proof.Machine
end

