-- ==== Sys2Proof/Machine/Ops.lean ====
section
/-! DEFINITION. The named operations over the state, and the five step kinds written once over a description of the command
that takes them: SUBMIT, ACQ, BUS_RD, BUS_WR and the tail ADVANCE (spec/41_arbiter.md R100 to R105). Ending a command with
an error, the block's only exception, is `raiseError` (spec/60_exceptions.md R169); there is no return from it (R170). -/

namespace Sys2Proof.Machine

/-! ### Reading and writing the state -/

/-- `PORT[p]` (R23). -/
def portAt (s : State) (p : Port) : PortState := s.port[p]

/-- `PORT[p] <- r` (R23). -/
def setPort (s : State) (p : Port) (r : PortState) : State := { s with port := s.port.set p r }

/-- `LIVE[p] = 1` (R18). -/
def isLive (s : State) (p : Port) : Bool := s.live[p]

/-- `LIVE[p] <- v` (R18). -/
def setLive (s : State) (p : Port) (v : Bool) : State := { s with live := s.live.set p v }

/-- `MODE[q]` (R22). -/
def modeAt (s : State) (q : Pin) : Mode := s.mode[q]

/-- `MODE[p] <- m` for the pin of a port; a port that has no pin has no tag (R22). -/
def setMode (s : State) (p : Port) (m : Mode) : State :=
  match pinOf p with
  | some q => { s with mode := s.mode.set q m }
  | none   => s

/-- `GATE.LOCKED <- 0` (R21). The owner field is left as it is: it means nothing while the gate is free. -/
def releaseGate (s : State) : State := { s with gate := { s.gate with locked := false } }

/-- `GATE.LOCKED <- 1; GATE.OWNER <- p` (R101). -/
def lockGate (s : State) (p : Port) : State := { s with gate := { locked := true, owner := p } }

/-- An event at the end of `HIST` (R25). -/
def record (s : State) (e : Event) : State := { s with hist := s.hist ++ [e] }

/-- The state once the next move is taken from the list. -/
def popMove (s : State) : State := { s with env := { s.env with moves := s.env.moves.tail } }

/-! ### Responses and errors -/

/-- The delivery of `{status, val}` to the requester of port `p` as the answer to the word `cw` (R11, R25, R72). -/
def respond (s : State) (p : Port) (cw : CmdWord) (st : Status) (v : Byte) : State :=
  record s (.resp p cw (responseWord st v))

/-- `PORT[p].BUSY <- 0`, with `TMP` holding no value (R104, R105, R169). -/
def makeIdle (s : State) (p : Port) : State :=
  setPort s p { portAt s p with busy := false, tmp := none }

/-- `raise <Kind>(info)` on port `p`, whose word is `cw` (R11, R169): a bus error releases the gate and makes the port
idle; the errors of SUBMIT change nothing; each is answered. -/
def raiseError (s : State) (p : Port) (cw : CmdWord) (k : ErrorKind) : State :=
  match k with
  | .busError e => respond (makeIdle (releaseGate s) p) p cw .busError e
  | .modeError  => respond s p cw (errorStatus .modeError) (errorValue .modeError)
  | .initError  => respond s p cw (errorStatus .initError) (errorValue .initError)
  | .illegal    => respond s p cw (errorStatus .illegal) (errorValue .illegal)

/-! ### Transfers -/

/-- The ordinal of the next transfer, counted from 1 (R61). -/
def nextTransfer (s : State) : Nat := s.env.transfers + 1

/-- The environment's answer to a read at `a`, with the target afterwards: the move's own answer, or that of the reference
target, or a free value (R49, R63; logs 13, 20). -/
def readReply (s : State) (a : Byte) (answer : Option ReadAnswer) : ReadAnswer × Option Target :=
  match answer with
  | some r => (r, s.env.target)
  | none =>
    match s.env.target with
    | some t =>
      ((targetRead s.cfg t (nextTransfer s) s.devaddr a).1, some (targetRead s.cfg t (nextTransfer s) s.devaddr a).2)
    | none => (Config.readAnswer (nextTransfer s), none)

/-- The environment's answer to a write of `v` at `a`, with the target afterwards (R49, R62; logs 13, 20). -/
def writeReply (s : State) (a v : Byte) (answer : Option WriteAnswer) : WriteAnswer × Option Target :=
  match answer with
  | some r => (r, s.env.target)
  | none =>
    match s.env.target with
    | some t =>
      ((targetWrite t (nextTransfer s) s.devaddr a v).1, some (targetWrite t (nextTransfer s) s.devaddr a v).2)
    | none => (Config.writeAnswer (nextTransfer s), none)

/-- The state after the read transfer `T.write_then_read(DEVADDR, [a], 1)` of port `p` (R47). -/
def afterRead (s : State) (p : Port) (a : Byte) (answer : Option ReadAnswer) : State :=
  { s with
    hist := s.hist ++ [.busWtr p s.devaddr [a] (readReply s a answer).1]
    env  := { s.env with target := (readReply s a answer).2, transfers := nextTransfer s } }

/-- The state after the write transfer `T.write(DEVADDR, [a, v])` of port `p` (R48). -/
def afterWrite (s : State) (p : Port) (a v : Byte) (answer : Option WriteAnswer) : State :=
  { s with
    hist := s.hist ++ [.busW p s.devaddr [a, v] (writeReply s a v answer).1]
    env  := { s.env with target := (writeReply s a v answer).2, transfers := nextTransfer s } }

/-! ### The five steps -/

/-- What a command is to the step relation: who may submit it (R71), when its handle is live (R100 case 4), the check that
follows (R100 cases 5 and 6), its plan (R90), its effect on completion (R100 case 7, R104), and the value of its `OK`
response from the byte its read returned (R72). -/
structure Command where
  cls    : PortClass
  alive  : State → Port → Bool
  check  : State → Port → Option ErrorKind
  plan   : Cfg → Port → List MicroOp
  effect : State → Port → State
  value  : Port → Byte → Byte

/-- The latches of an accepted command: `BUSY <- 1; CW <- cw; K <- 0; PH <- WAIT` (R100 case 7). -/
def latchCommand (s : State) (p : Port) (cw : CmdWord) : State :=
  setPort s p { portAt s p with busy := true, cw := cw, k := 0, ph := .wait }

/-- SUBMIT(p, cw) for a word that decodes (R100 cases 3 to 7); `s` is the state once the move is taken. -/
def submit (c : Command) (p : Port) (cw : CmdWord) (s : State) : Result :=
  if (portAt s p).busy then .refused .submitWhileBusy
  else if classAdmits c.cls p = false then .next (raiseError s p cw .illegal)
  else if c.alive s p = false then .next (raiseError s p cw .illegal)
  else
    match c.check s p with
    | some k => .next (raiseError s p cw k)
    | none =>
      if c.plan s.cfg p = [] then .next (respond (c.effect s p) p cw .ok 0)
      else .next (latchCommand s p cw)

/-- The phase in which a micro-operation starts once the gate is held (R101). -/
def firstPhase : MicroOp → Phase
  | .read _    => .rd
  | .write _ _ => .wr
  | .rmw _ _ _ => .rd

/-- ACQ(p) (R101). With the gate held by another port "the port waits with no change of state" (log 5). -/
def acquire (c : Command) (p : Port) (s : State) : Result :=
  if (portAt s p).busy = true ∧ (portAt s p).ph = .wait then
    if s.gate.locked then .next s
    else
      match (c.plan s.cfg p)[(portAt s p).k.val]? with
      | some op => .next (setPort (lockGate s p) p { portAt s p with ph := firstPhase op })
      | none    => .fault .noMicroOp
  else .refused .stepNotEnabled

/-- `K + 1`, where it is one of the values K can hold (R17; log 17). -/
def nextIndex (k : Fin 3) : Option (Fin 3) := if h : k.val + 1 < 3 then some ⟨k.val + 1, h⟩ else none

/-- ADVANCE (R104): on to the next micro-operation, waiting for the gate afresh, or the command completes with the value
`v`. -/
def advance (c : Command) (p : Port) (v : Byte) (s : State) : Result :=
  if (portAt s p).k.val + 1 < (c.plan s.cfg p).length then
    match nextIndex (portAt s p).k with
    | some k => .next (setPort s p { portAt s p with k := k, ph := .wait, tmp := none })
    | none   => .fault .planTooLong
  else .next (respond (makeIdle (c.effect s p) p) p (portAt s p).cw .ok v)

/-- Whether port `p` may make a transfer in a phase: it is busy in that phase and owns the gate (R102, R103). -/
def mayTransfer (s : State) (p : Port) (ph : Phase) : Bool :=
  (portAt s p).busy && decide ((portAt s p).ph = ph) && s.gate.locked && decide (s.gate.owner = p)

/-- The latch of the byte a read half returned: `TMP <- b; PH <- WR` (R102 (b)). -/
def latchRead (s : State) (p : Port) (b : Byte) : State :=
  setPort s p { portAt s p with tmp := some b, ph := .wr }

/-- BUS_RD(p) with the environment's answer (R102). -/
def busRead (c : Command) (p : Port) (answer : Option ReadAnswer) (s : State) : Result :=
  if mayTransfer s p .rd then
    match (c.plan s.cfg p)[(portAt s p).k.val]? with
    | some (.read a) =>
      match (readReply s a answer).1 with
      | .err e => .next (raiseError (afterRead s p a answer) p (portAt s p).cw (.busError e))
      | .ok b  => advance c p (c.value p b) (releaseGate (afterRead s p a answer))
    | some (.rmw a _ _) =>
      match (readReply s a answer).1 with
      | .err e => .next (raiseError (afterRead s p a answer) p (portAt s p).cw (.busError e))
      | .ok b  => .next (latchRead (afterRead s p a answer) p b)
    | some (.write _ _) => .fault .noMicroOp
    | none => .fault .noMicroOp
  else .refused .stepNotEnabled

/-- The write transfer of byte `w` at `a` that ends a micro-operation of port `p` (R103). -/
def finishWrite (c : Command) (p : Port) (a w : Byte) (answer : Option WriteAnswer) (s : State) : Result :=
  match (writeReply s a w answer).1 with
  | .err e => .next (raiseError (afterWrite s p a w answer) p (portAt s p).cw (.busError e))
  | .ok    => advance c p 0 (releaseGate (afterWrite s p a w answer))

/-- BUS_WR(p) with the environment's answer (R103). -/
def busWrite (c : Command) (p : Port) (answer : Option WriteAnswer) (s : State) : Result :=
  if mayTransfer s p .wr then
    match (c.plan s.cfg p)[(portAt s p).k.val]? with
    | some (.write a d) => finishWrite c p a d answer s
    | some (.rmw a i v) =>
      match (portAt s p).tmp with
      | some b => finishWrite c p a (merge b i v) answer s
      | none   => .fault .tmpHoldsNoValue
    | some (.read _) => .fault .noMicroOp
    | none => .fault .noMicroOp
  else .refused .stepNotEnabled

/-- The next step of a command: the move at the head of the list says which port takes it and which step kind it is. -/
def commandStep (c : Command) (s : State) : Result :=
  match s.env.moves with
  | .submit p cw :: _    => submit c p cw (popMove s)
  | .acq p :: _          => acquire c p (popMove s)
  | .busRd p answer :: _ => busRead c p answer (popMove s)
  | .busWr p answer :: _ => busWrite c p answer (popMove s)
  | .level _ _ :: _      => .refused .noCommandMove
  | .event _ :: _        => .refused .noCommandMove
  | .poke _ _ :: _       => .refused .noCommandMove
  | []                   => .refused .noCommandMove

/-! ### Parts a command is described by -/

/-- R100 case 4 for every command but `NEW`: `LIVE[p] = 1`. -/
def handleLive (s : State) (p : Port) : Bool := isLive s p

/-- No check after liveness. -/
def noCheck (_ : State) (_ : Port) : Option ErrorKind := none

/-- The mode check of `SET_HIGH` and `SET_LOW` (R130, R100 case 6): the tag of the pin is `Output` or `OutputOpenDrain`. -/
def outputModeCheck (s : State) (p : Port) : Option ErrorKind :=
  match pinOf p with
  | some q => if modeAt s q = .output ∨ modeAt s q = .outputOpenDrain then none else some .modeError
  | none   => none

/-- No effect on completion (R104). -/
def noEffect (s : State) (_ : Port) : State := s

/-- The value of every `OK` response that carries no read result (R72). -/
def noValue (_ : Port) (_ : Byte) : Byte := 0

/-- The byte read, as it came (R85, R137). -/
def byteRead (_ : Port) (b : Byte) : Byte := b

/-- The pin's bit of the byte read (R127). -/
def pinHigh (p : Port) (b : Byte) : Byte :=
  match pinOf p with
  | some q => bitValue (b.getLsbD (bitpos q).toNat)
  | none   => 0

/-- The complement of the pin's bit of the byte read (R128). -/
def pinLow (p : Port) (b : Byte) : Byte :=
  match pinOf p with
  | some q => bitValue (!b.getLsbD (bitpos q).toNat)
  | none   => 0

/-! ### Fetching a command, and the moves that run none -/

/-- The port and the word of the command whose step is the next move: the submitted word on an idle port, the latched word
on a busy one. None where the next move is no enabled step of a command. -/
def fetch (s : State) : Option (Port × CmdWord) :=
  match s.env.moves with
  | .submit p cw :: _ => if (portAt s p).busy then none else some (p, cw)
  | .acq p :: _       => if (portAt s p).busy then some (p, (portAt s p).cw) else none
  | .busRd p _ :: _   => if (portAt s p).busy then some (p, (portAt s p).cw) else none
  | .busWr p _ :: _   => if (portAt s p).busy then some (p, (portAt s p).cw) else none
  | .level _ _ :: _   => none
  | .event _ :: _     => none
  | .poke _ _ :: _    => none
  | []                => none

/-- A step whose word is no command: SUBMIT answers `Illegal` (R100 cases 1 and 2); a busy port whose latch is no command
is a state no run reaches (log 16). -/
def undecodable (p : Port) (cw : CmdWord) (s : State) : Result :=
  if (portAt s p).busy then .fault .latchNotACommand else .next (raiseError (popMove s) p cw .illegal)

/-- A change of the attached reference target; nothing where none is attached (log 21). -/
def changeTarget (s : State) (f : Target → Target) : State :=
  { s with env := { s.env with target := s.env.target.map f } }

/-- A move that runs no command: none left, so nothing happens (log 3); a step that is not enabled, so there is none
(log 4); an event of the environment (R64, R12 (c)). -/
def environmentStep (s : State) : Result :=
  match s.env.moves with
  | []               => .next s
  | .submit _ _ :: _ => .refused .submitWhileBusy
  | .acq _ :: _      => .refused .stepNotEnabled
  | .busRd _ _ :: _  => .refused .stepNotEnabled
  | .busWr _ _ :: _  => .refused .stepNotEnabled
  | .level q v :: _  => .next (changeTarget (popMove s) fun t => targetLevel t q v)
  | .event q :: _    => .next (changeTarget (popMove s) fun t => targetEvent s.cfg t q)
  | .poke a v :: _   => .next (changeTarget (popMove s) fun t => targetSetReg t a v)

/-- The port on which a word is placed when it is to be the next command: `PD` for the words of the device port's groups
and pin port 0 for those of the pin groups, by `OP[4]` (R68, R71; log 15). -/
def placingPort (cw : CmdWord) : Port := if (fieldOp cw).getLsbD 4 then 0 else portPD

end Sys2Proof.Machine
end

