-- ==== Sys2Proof/Machine/Engine.lean ====
section
/-! DEFINITION. The raw engine commands RDREG, WRREG and MODBIT (spec/40_engine.md R85 to R87), on port PD only. -/

namespace Sys2Proof.Machine

/-- `RDREG a` (R85): one read transfer; the response carries the byte. -/
def execRdreg (a : Byte) (s : State) : Host.Outcome State Fault Refusal :=
  commandStep
    { cls := .device, alive := handleLive, check := noCheck, plan := fun _ _ => [.read a],
      effect := noEffect, value := byteRead } s

/-- `WRREG a, d` (R86): one write transfer of all 8 bits, with no read before it. -/
def execWrreg (a d : Byte) (s : State) : Host.Outcome State Fault Refusal :=
  commandStep
    { cls := .device, alive := handleLive, check := noCheck, plan := fun _ _ => [.write a d],
      effect := noEffect, value := noValue } s

/-- `MODBIT a, b, v` (R87): one read-modify-write. -/
def execModbit (a : Byte) (b : BitVec 3) (v : Bool) (s : State) : Host.Outcome State Fault Refusal :=
  commandStep
    { cls := .device, alive := handleLive, check := noCheck, plan := fun _ _ => [.rmw a b v],
      effect := noEffect, value := noValue } s

end Sys2Proof.Machine
end

