-- ==== Sys2Proof/Machine/Lifecycle.lean ====
section
/-! DEFINITION. The lifecycle commands NEW, SPLIT and DROP (spec/45_lifecycle.md R145 to R148): each completes inside its
SUBMIT step, makes no transfer and touches no gate (spec/41_arbiter.md R113). -/

namespace Sys2Proof.Machine

/-- `NEW` finds no device: `REFCNT = 0` (R100 case 4, R145). -/
def noDevice (s : State) (_ : Port) : Bool := s.refcnt == 0

/-- `NEW a` with `a[7] = 1` is outside the legal 7-bit range (R100 case 5, R145, R163). -/
def newAddressCheck (a : Byte) (_ : State) (_ : Port) : Option ErrorKind :=
  if a.getLsbD 7 then some .initError else none

/-- `DEVADDR <- a[6:0]; LIVE[16] <- 1; REFCNT <- 1` (R145). -/
def newEffect (a : Byte) (s : State) (_ : Port) : State :=
  { setLive s portPD true with devaddr := a.extractLsb' 0 7, refcnt := 1 }

/-- `NEW a` (R145). -/
def execNew (a : Byte) (s : State) : Host.Outcome State Fault Refusal :=
  commandStep
    { cls := .device, alive := noDevice, check := newAddressCheck a, plan := fun _ _ => [],
      effect := newEffect a, value := noValue } s

/-- `for p in 0..15: (LIVE[p] <- 1; MODE[p] <- 0); LIVE[16] <- 0; REFCNT <- 16` (R146). -/
def splitEffect (s : State) (_ : Port) : State :=
  { s with
    live   := (Vector.replicate 17 true).set portPD false
    mode   := Vector.replicate 16 .unconfigured
    refcnt := 16 }

/-- `SPLIT` (R146). -/
def execSplit (s : State) : Host.Outcome State Fault Refusal :=
  commandStep
    { cls := .device, alive := handleLive, check := noCheck, plan := fun _ _ => [],
      effect := splitEffect, value := noValue } s

/-- `LIVE[p] <- 0; REFCNT <- REFCNT - 1` (R147). -/
def dropEffect (s : State) (p : Port) : State := { setLive s p false with refcnt := s.refcnt - 1 }

/-- `DROP` (R147). -/
def execDrop (s : State) : Host.Outcome State Fault Refusal :=
  commandStep
    { cls := .any, alive := handleLive, check := noCheck, plan := fun _ _ => [],
      effect := dropEffect, value := noValue } s

end Sys2Proof.Machine
end

