-- ==== Sys2Proof/Machine/PinData.lean ====
section
/-! DEFINITION. The pin data commands (spec/43_pin_data.md R125 to R130): SET_LOW and SET_HIGH with the mode check and a
read-modify-write of the data register, IS_LOW and IS_HIGH with one fresh read of it. -/

namespace Sys2Proof.Machine

/-- `SET_LOW` (R126, R130). -/
def execSetLow (s : State) : Host.Outcome State Fault Refusal :=
  commandStep
    { cls := .pin, alive := handleLive, check := outputModeCheck, plan := fun c => rmwPlan c .data false,
      effect := noEffect, value := noValue } s

/-- `SET_HIGH` (R125, R130). -/
def execSetHigh (s : State) : Host.Outcome State Fault Refusal :=
  commandStep
    { cls := .pin, alive := handleLive, check := outputModeCheck, plan := fun c => rmwPlan c .data true,
      effect := noEffect, value := noValue } s

/-- `IS_LOW` (R128, R129). -/
def execIsLow (s : State) : Host.Outcome State Fault Refusal :=
  commandStep
    { cls := .pin, alive := handleLive, check := noCheck, plan := fun c => readPlan c .data,
      effect := noEffect, value := pinLow } s

/-- `IS_HIGH` (R127, R129). -/
def execIsHigh (s : State) : Host.Outcome State Fault Refusal :=
  commandStep
    { cls := .pin, alive := handleLive, check := noCheck, plan := fun c => readPlan c .data,
      effect := noEffect, value := pinHigh } s

end Sys2Proof.Machine
end

