-- ==== Sys2Proof/Machine/PinIrq.lean ====
section
/-! DEFINITION. The pin interrupt commands (spec/44_pin_irq.md R135 to R138): the mask bit is assigned by a
read-modify-write; the status byte of the bank is read once, and clearing it is the target's own side effect. -/

namespace Sys2Proof.Machine

/-- `IRQ_DISARM` (R136). -/
def execIrqDisarm (s : State) : Host.Outcome State Fault Refusal :=
  commandStep
    { cls := .pin, alive := handleLive, check := noCheck, plan := fun c => rmwPlan c .intMask (!c.irqArmed),
      effect := noEffect, value := noValue } s

/-- `IRQ_ARM` (R135). -/
def execIrqArm (s : State) : Host.Outcome State Fault Refusal :=
  commandStep
    { cls := .pin, alive := handleLive, check := noCheck, plan := fun c => rmwPlan c .intMask c.irqArmed,
      effect := noEffect, value := noValue } s

/-- `IRQ_STATUS` (R137, R138). -/
def execIrqStatus (s : State) : Host.Outcome State Fault Refusal :=
  commandStep
    { cls := .pin, alive := handleLive, check := noCheck, plan := fun c => readPlan c .intStatus,
      effect := noEffect, value := byteRead } s

end Sys2Proof.Machine
end

