-- ==== Sys2Proof/Machine/PinMode.lean ====
section
/-! DEFINITION. The pin mode commands (spec/42_pin_mode.md R115 to R120): the plan is the mode's sequence of
read-modify-writes, and on completion the tag is installed. They are accepted in every tag. -/

namespace Sys2Proof.Machine

/-- `INTO_INPUT` (R116). -/
def execIntoInput (s : State) : Host.Outcome State Fault Refusal :=
  commandStep
    { cls := .pin, alive := handleLive, check := noCheck, plan := fun c => intoPlan c .input,
      effect := fun t p => setMode t p .input, value := noValue } s

/-- `INTO_INPUT_PU` (R117). -/
def execIntoInputPu (s : State) : Host.Outcome State Fault Refusal :=
  commandStep
    { cls := .pin, alive := handleLive, check := noCheck, plan := fun c => intoPlan c .inputPullUp,
      effect := fun t p => setMode t p .inputPullUp, value := noValue } s

/-- `INTO_INPUT_PD` (R118). -/
def execIntoInputPd (s : State) : Host.Outcome State Fault Refusal :=
  commandStep
    { cls := .pin, alive := handleLive, check := noCheck, plan := fun c => intoPlan c .inputPullDown,
      effect := fun t p => setMode t p .inputPullDown, value := noValue } s

/-- `INTO_OUTPUT` (R119). -/
def execIntoOutput (s : State) : Host.Outcome State Fault Refusal :=
  commandStep
    { cls := .pin, alive := handleLive, check := noCheck, plan := fun c => intoPlan c .output,
      effect := fun t p => setMode t p .output, value := noValue } s

/-- `INTO_OUTPUT_OD` (R120). -/
def execIntoOutputOd (s : State) : Host.Outcome State Fault Refusal :=
  commandStep
    { cls := .pin, alive := handleLive, check := noCheck, plan := fun c => intoPlan c .outputOpenDrain,
      effect := fun t p => setMode t p .outputOpenDrain, value := noValue } s

end Sys2Proof.Machine
end

