-- ==== Sys2Proof/Machine/Dispatch.lean ====
section
/-! DEFINITION. The dispatch: the next step of a command is its own meaning's. -/

namespace Sys2Proof.Machine

def exec (i : Instr) (s : State) : Host.Outcome State Fault Refusal :=
  match i with
  | .new a => Sys2Proof.Machine.execNew a s
  | .split => Sys2Proof.Machine.execSplit s
  | .drop => Sys2Proof.Machine.execDrop s
  | .rdreg a => Sys2Proof.Machine.execRdreg a s
  | .wrreg a d => Sys2Proof.Machine.execWrreg a d s
  | .modbit a b v => Sys2Proof.Machine.execModbit a b v s
  | .intoInput => Sys2Proof.Machine.execIntoInput s
  | .intoInputPu => Sys2Proof.Machine.execIntoInputPu s
  | .intoInputPd => Sys2Proof.Machine.execIntoInputPd s
  | .intoOutput => Sys2Proof.Machine.execIntoOutput s
  | .intoOutputOd => Sys2Proof.Machine.execIntoOutputOd s
  | .setLow => Sys2Proof.Machine.execSetLow s
  | .setHigh => Sys2Proof.Machine.execSetHigh s
  | .isLow => Sys2Proof.Machine.execIsLow s
  | .isHigh => Sys2Proof.Machine.execIsHigh s
  | .irqDisarm => Sys2Proof.Machine.execIrqDisarm s
  | .irqArm => Sys2Proof.Machine.execIrqArm s
  | .irqStatus => Sys2Proof.Machine.execIrqStatus s

end Sys2Proof.Machine
end

