-- ==== Sys2Proof/Machine/Step.lean ====
section
/-! DEFINITION. One step of the machine: the next move's command is fetched, decoded and stepped (spec/41_arbiter.md R100
to R103), or the move runs no command. -/

namespace Sys2Proof.Machine

/-- One step. -/
def step (s : State) : Host.Outcome State Fault Refusal :=
  match fetch s with
  | some (p, cw) =>
    match decode cw with
    | .ok i    => exec i s
    | .error _ => undecodable p cw s
  | none => environmentStep s

/-- The state with an instruction placed where `step` takes its next one from: the SUBMIT of its word is the next move, on
the port of `placingPort` (log 15). Nothing else changes. -/
def State.withFetchWord (s : State) (nbits w : Nat) : State :=
  { s with
    env := { s.env with
      moves := .submit (placingPort (BitVec.ofNat 24 (w % 2 ^ nbits))) (BitVec.ofNat 24 (w % 2 ^ nbits)) :: s.env.moves } }

end Sys2Proof.Machine
end

