-- ==== Sys2Proof/Safety.lean ====
section
/-! DEFINITION. The terms claims are stated in: what a port is doing, the invariant of every reachable state
(spec/10_state.md R30), reachability, the derived lifecycle (R29), and when two states differ only in fields that hold no
meaningful value (R31). -/

namespace Sys2Proof.Machine

/-- The micro-operation number `K` of the plan of the latched command of a port (R17, R90). -/
def currentOp (s : State) (p : Port) : Option MicroOp :=
  match decode (portAt s p).cw with
  | .ok i    => (plan s.cfg p i)[(portAt s p).k.val]?
  | .error _ => none

/-- A port is busy in phase `RD` or `WR`: it is in a register transaction (R30 (e), R106). -/
def inTransaction (s : State) (p : Port) : Prop := (portAt s p).busy = true ∧ (portAt s p).ph ≠ .wait

/-- How many handles are live (R30 (b)). -/
def liveCount (s : State) : Nat := s.live.toList.count true

/-- A phase, the micro-operation in progress and the read latch fit together: `RD` belongs to a read, `WR` to a write with
no latched byte or to a read-modify-write with one (R24, R101 to R103). -/
def phaseFits : Phase → Option MicroOp → Option Byte → Bool
  | .wait, some _,            none   => true
  | .rd,   some (.read _),    none   => true
  | .rd,   some (.rmw _ _ _), none   => true
  | .wr,   some (.write _ _), none   => true
  | .wr,   some (.rmw _ _ _), some _ => true
  | _,     _,                 _      => false

/-- The invariant every step keeps: R30 (a) to (f) and (h) ((g) is a fact of the type `Mode`), with what they need to be
kept: the configuration is well formed (R8), phase, plan and read latch of a busy port fit together, its command is one of
its port's class (R71), an idle port latches no byte (R24), and the registers of an attached reference target are in
canonical form. -/
structure Inv (s : State) : Prop where
  cfg_wf        : s.cfg.wf = true
  device_alone  : isLive s portPD = true → ∀ q : Pin, isLive s (pinPort q) = false
  refcnt_counts : s.refcnt.toNat = liveCount s
  busy_live     : ∀ p, (portAt s p).busy = true → isLive s p = true
  owner_busy    : s.gate.locked = true → inTransaction s s.gate.owner
  busy_owner    : ∀ p, inTransaction s p → s.gate.locked = true ∧ s.gate.owner = p
  phase_fits    : ∀ p, (portAt s p).busy = true →
                    phaseFits (portAt s p).ph (currentOp s p) (portAt s p).tmp = true
  latch_class   : ∀ p i, (portAt s p).busy = true → decode (portAt s p).cw = .ok i → classAdmits (portClass i) p = true
  idle_no_tmp   : ∀ p, (portAt s p).busy = false → (portAt s p).tmp = none
  target_wf     : ∀ t, s.env.target = some t → Memory.wf t.reg = true

/-- A start of a run: the state after reset under any well-formed configuration, with any moves to come and any reference
target (R191 (a)). -/
def Start (s : State) : Prop :=
  ∃ c e, s = { State.reset with cfg := c, env := e } ∧ c.wf = true ∧
    ∀ t, e.target = some t → Memory.wf t.reg = true

/-- A state some run reaches. -/
inductive Reachable : State → Prop where
  | start (s : State) (h : Start s) : Reachable s
  | step (s s' : State) (h : Reachable s) (hs : step s = .next s') : Reachable s'

/-- No port has a command in progress (R114). -/
def Quiescent (s : State) : Prop := ∀ p, (portAt s p).busy = false

/-- The three lifecycle states (R29). -/
inductive Life where
  | empty
  | device
  | split
  deriving DecidableEq, Repr

/-- `LIFE`, derived from `REFCNT` and `LIVE[16]` (R29). -/
def life (s : State) : Life :=
  if s.refcnt = 0 then .empty else if isLive s portPD then .device else .split

/-- Whether an event is a transfer. -/
def isBus : Event → Bool
  | .busWtr _ _ _ _ => true
  | .busW _ _ _ _   => true
  | .resp _ _ _     => false

/-- The port of an event. -/
def eventPort : Event → Port
  | .busWtr p _ _ _ => p
  | .busW p _ _ _   => p
  | .resp p _ _     => p

/-- `HIST` restricted to `Bus` events (R111). -/
def busEvents (h : List Event) : List Event := h.filter isBus

/-- The byte at a register address of the attached reference target, if one is attached. -/
def regOf (s : State) (a : Byte) : Option Byte := s.env.target.map fun t => targetReg t a

/-- The block's own state (R15) is the same in two states. -/
def SameBlock (s t : State) : Prop :=
  t.live = s.live ∧ t.refcnt = s.refcnt ∧ t.devaddr = s.devaddr ∧ t.gate = s.gate ∧ t.mode = s.mode ∧
    t.port = s.port ∧ t.hist = s.hist

/-- Two states are the same in every field that holds a meaningful value: `DEVADDR` while a handle is live (R20), `OWNER`
while the gate is held (R21), `MODE[q]` while the pin's handle is live (R22), `CW`, `K` and `PH` while the port is busy
(R17, R23). -/
structure SameMeaning (s t : State) : Prop where
  live    : t.live = s.live
  refcnt  : t.refcnt = s.refcnt
  devaddr : s.refcnt ≠ 0 → t.devaddr = s.devaddr
  locked  : t.gate.locked = s.gate.locked
  owner   : s.gate.locked = true → t.gate.owner = s.gate.owner
  mode    : ∀ q, isLive s (pinPort q) = true → modeAt t q = modeAt s q
  busy    : ∀ p, (portAt t p).busy = (portAt s p).busy
  latches : ∀ p, (portAt s p).busy = true → portAt t p = portAt s p
  hist    : t.hist = s.hist
  cfg     : t.cfg = s.cfg
  env     : t.env = s.env

/-- How much of its command a busy port still has before it, in steps of its own: 3 for each micro-operation to come, less
the phase reached in the present one (R112). -/
def remainingSteps (s : State) (p : Port) : Nat :=
  match (portAt s p).busy, (portAt s p).ph with
  | false, _     => 0
  | true,  .wait => 3 * (3 - (portAt s p).k.val)
  | true,  .rd   => 3 * (3 - (portAt s p).k.val) - 1
  | true,  .wr   => 3 * (3 - (portAt s p).k.val) - 2

end Sys2Proof.Machine
end

