-- ==== Sys2Proof/Certificates/Slice0/Obligations.lean ====
section
/-! DEFINITION. The statements for the provers, from the spec's numbered rules. What stands in namespace Claims only
abbreviates: the states the rules describe, written out field by field. -/

namespace Sys2Proof.Claims

open Sys2Proof.Machine

/-! ### States the rules describe -/

/-- The state with the moves to come replaced. -/
def withMoves (s : State) (ms : List Move) : State := { s with env := { s.env with moves := ms } }

/-- The state with the attached reference target replaced. -/
def withTarget (s : State) (t : Option Target) : State := { s with env := { s.env with target := t } }

/-- The state with one port's record replaced. -/
def withPort (s : State) (p : Port) (r : PortState) : State := { s with port := s.port.set p r }

/-- The answer `{status, val}` to the word `cw` of port `p`, with nothing else changed (R72, R169). -/
def answered (s : State) (p : Port) (cw : CmdWord) (code : BitVec 4) (v : Byte) : State :=
  { s with hist := s.hist ++ [.resp p cw (code ++ v)] }

/-- Port `p` with the accepted word `cw` (R100 case 7). -/
def accepted (s : State) (p : Port) (cw : CmdWord) : State :=
  withPort s p { s.port[p] with busy := true, cw := cw, k := 0, ph := .wait }

/-- Port `p` with the gate, in phase `ph` (R101). -/
def granted (s : State) (p : Port) (ph : Phase) : State :=
  { withPort s p { s.port[p] with ph := ph } with gate := { locked := true, owner := p } }

/-- Port `p` idle again, with the gate free (R104, R105, R169). -/
def ended (s : State) (p : Port) : State :=
  { withPort s p { s.port[p] with busy := false, tmp := none } with gate := { s.gate with locked := false } }

/-- Port `p` waiting for the gate for micro-operation `k`, with the gate free (R104). -/
def waitingAgain (s : State) (p : Port) (k : Fin 3) : State :=
  { withPort s p { s.port[p] with k := k, ph := .wait, tmp := none } with gate := { s.gate with locked := false } }

/-- Port `p` with the byte of its read half latched (R102 (b)). -/
def latched (s : State) (p : Port) (b : Byte) : State :=
  withPort s p { s.port[p] with tmp := some b, ph := .wr }

/-- The state after a read transfer of port `p` at `a` whose answer is `r` and whose target is `t` (R47). -/
def didRead (s : State) (p : Port) (a : Byte) (r : ReadAnswer) (t : Option Target) : State :=
  { s with
    hist := s.hist ++ [.busWtr p s.devaddr [a] r]
    env  := { s.env with target := t, transfers := s.env.transfers + 1 } }

/-- The state after a write transfer of port `p` of `v` at `a` whose answer is `r` and whose target is `t` (R48). -/
def didWrite (s : State) (p : Port) (a v : Byte) (r : WriteAnswer) (t : Option Target) : State :=
  { s with
    hist := s.hist ++ [.busW p s.devaddr [a, v] r]
    env  := { s.env with target := t, transfers := s.env.transfers + 1 } }

/-! ### Conditions the rules name -/

/-- Port `p` is busy in phase `ph` at micro-operation `k` and, for a transfer, owns the gate (R101 to R103). -/
abbrev AtPhase (s : State) (p : Port) (ph : Phase) (k : Nat) : Prop :=
  s.port[p].busy = true ∧ s.port[p].ph = ph ∧ s.port[p].k.val = k

/-- Port `p` owns the gate (R21). -/
abbrev Owns (s : State) (p : Port) : Prop := s.gate.locked = true ∧ s.gate.owner = p

/-- The ports R71 refuses a command on: the device commands off `PD`, the pin commands on `PD`, `DROP` nowhere. -/
def WrongPort (p : Port) : Instr → Prop
  | .new _        => p ≠ 16
  | .split        => p ≠ 16
  | .drop         => False
  | .rdreg _      => p ≠ 16
  | .wrreg _ _    => p ≠ 16
  | .modbit _ _ _ => p ≠ 16
  | .intoInput    => p = 16
  | .intoInputPu  => p = 16
  | .intoInputPd  => p = 16
  | .intoOutput   => p = 16
  | .intoOutputOd => p = 16
  | .setLow       => p = 16
  | .setHigh      => p = 16
  | .isLow        => p = 16
  | .isHigh       => p = 16
  | .irqDisarm    => p = 16
  | .irqArm       => p = 16
  | .irqStatus    => p = 16

/-- R100 case 4: a device exists for `NEW`, the port's handle is dead for every other command. -/
def WrongLiveness (s : State) (p : Port) : Instr → Prop
  | .new _ => s.refcnt ≠ 0
  | _      => s.live[p] = false

/-- R100 case 5: `NEW` with `a[7] = 1`. -/
def BadAddress : Instr → Prop
  | .new a => a.getLsbD 7 = true
  | _      => False

/-- R100 case 6: `SET_HIGH` or `SET_LOW` on a pin whose tag is neither `Output` nor `OutputOpenDrain`. -/
def WrongMode (s : State) (p : Port) (i : Instr) : Prop :=
  (i = .setHigh ∨ i = .setLow) ∧
    ∃ q : Pin, p = pinPort q ∧ s.mode[q] ≠ .output ∧ s.mode[q] ≠ .outputOpenDrain

/-- The commands of the lifecycle family, whose plan is empty (R90). -/
def IsLifecycle : Instr → Prop
  | .new _ => True
  | .split => True
  | .drop  => True
  | _      => False

/-- The commands that install a mode tag (R115). -/
def IsModeCommand (i : Instr) : Prop :=
  i = .intoInput ∨ i = .intoInputPu ∨ i = .intoInputPd ∨ i = .intoOutput ∨ i = .intoOutputOd

/-- The effect of a lifecycle command (R145 to R147). -/
def lifecycleEffect (s : State) (p : Port) : Instr → State
  | .new a => { s with devaddr := a.extractLsb' 0 7, live := s.live.set 16 true, refcnt := 1 }
  | .split => { s with live := (Vector.replicate 17 true).set 16 false, mode := Vector.replicate 16 .unconfigured, refcnt := 16 }
  | .drop  => { s with live := s.live.set p false, refcnt := s.refcnt - 1 }
  | _      => s

/-! ### The steps of a command, by the shape of its plan -/

/-- SUBMIT of the command `i` on port `p` is accepted in every state that meets `ok` (R100 case 7). -/
def AcceptedOn (i : Instr) (p : Port) (ok : State → Prop) : Prop :=
  ∀ (s : State) (ms : List Move), s.env.moves = .submit p (encode i) :: ms → s.port[p].busy = false →
    s.live[p] = true → ok s → exec i s = .next (withMoves (accepted s p (encode i)) ms)

/-- ACQ of port `p`, whose command is `i`, takes the free gate for its first micro-operation, which starts in phase `ph`
(R101). -/
def AcquiresFor (i : Instr) (p : Port) (ph : Phase) : Prop :=
  ∀ (s : State) (ms : List Move), s.env.moves = .acq p :: ms → AtPhase s p .wait 0 → s.gate.locked = false →
    exec i s = .next (withMoves (granted s p ph) ms)

/-- BUS_RD of the read micro-operation at `addr` that is all of the plan of `i`: the gate is released and the command is
answered, with `val` of the byte read or with the transport's error (R102, R104, R105). -/
def ReadEnds (i : Instr) (p : Port) (addr : Cfg → Byte) (val : Byte → Byte) : Prop :=
  ∀ (s : State) (ms : List Move) (ans : Option ReadAnswer), s.env.moves = .busRd p ans :: ms →
    AtPhase s p .rd 0 → Owns s p →
    (∀ b t, readReply s (addr s.cfg) ans = (.ok b, t) →
      exec i s = .next (withMoves (answered (ended (didRead s p (addr s.cfg) (.ok b) t) p) p s.port[p].cw 0 (val b)) ms)) ∧
    (∀ e t, readReply s (addr s.cfg) ans = (.err e, t) →
      exec i s = .next (withMoves (answered (ended (didRead s p (addr s.cfg) (.err e) t) p) p s.port[p].cw 1 e) ms))

/-- BUS_WR of the write micro-operation of `v` at `a` that is all of the plan of `i` (R103 to R105). -/
def WriteEnds (i : Instr) (p : Port) (a v : Byte) : Prop :=
  ∀ (s : State) (ms : List Move) (ans : Option WriteAnswer), s.env.moves = .busWr p ans :: ms →
    AtPhase s p .wr 0 → Owns s p →
    (∀ t, writeReply s a v ans = (.ok, t) →
      exec i s = .next (withMoves (answered (ended (didWrite s p a v .ok t) p) p s.port[p].cw 0 0) ms)) ∧
    (∀ e t, writeReply s a v ans = (.err e, t) →
      exec i s = .next (withMoves (answered (ended (didWrite s p a v (.err e) t) p) p s.port[p].cw 1 e) ms))

/-- BUS_RD of a read-modify-write at `addr` of the plan of `i`, micro-operation `k`, in every state that meets `ok`: the
byte is latched and the gate is kept, or the command ends with the transport's error and no write is made (R102, R105). -/
def ReadHalf (i : Instr) (p : Port) (k : Nat) (ok : State → Prop) (addr : Cfg → Byte) : Prop :=
  ∀ (s : State) (ms : List Move) (ans : Option ReadAnswer), s.env.moves = .busRd p ans :: ms → ok s →
    AtPhase s p .rd k → Owns s p →
    (∀ b t, readReply s (addr s.cfg) ans = (.ok b, t) →
      exec i s = .next (withMoves (latched (didRead s p (addr s.cfg) (.ok b) t) p b) ms)) ∧
    (∀ e t, readReply s (addr s.cfg) ans = (.err e, t) →
      exec i s = .next (withMoves (answered (ended (didRead s p (addr s.cfg) (.err e) t) p) p s.port[p].cw 1 e) ms))

/-- BUS_WR of the read-modify-write of bit `bit` to `val` at `addr` that is all of the plan of `i`: the byte written is the
byte latched with that one bit replaced, and the command is answered (R88, R103 to R105). -/
def WriteHalfEnds (i : Instr) (p : Port) (addr : Cfg → Byte) (bit : BitVec 3) (val : Cfg → Bool) : Prop :=
  ∀ (s : State) (ms : List Move) (ans : Option WriteAnswer) (b w : Byte), s.env.moves = .busWr p ans :: ms →
    AtPhase s p .wr 0 → Owns s p → s.port[p].tmp = some b → w = merge b bit (val s.cfg) →
    (∀ t, writeReply s (addr s.cfg) w ans = (.ok, t) →
      exec i s = .next (withMoves (answered (ended (didWrite s p (addr s.cfg) w .ok t) p) p s.port[p].cw 0 0) ms)) ∧
    (∀ e t, writeReply s (addr s.cfg) w ans = (.err e, t) →
      exec i s = .next (withMoves (answered (ended (didWrite s p (addr s.cfg) w (.err e) t) p) p s.port[p].cw 1 e) ms))

/-- Every step of a command whose plan is one read at `addr` (R85, R127, R128, R137). -/
def ReadCommand (i : Instr) (p : Port) (addr : Cfg → Byte) (val : Byte → Byte) : Prop :=
  AcceptedOn i p (fun _ => True) ∧ AcquiresFor i p .rd ∧ ReadEnds i p addr val

/-- Every step of a command whose plan is one read-modify-write, accepted in every state that meets `ok` (R87, R125, R126,
R135, R136). -/
def RmwCommand (i : Instr) (p : Port) (ok : State → Prop) (addr : Cfg → Byte) (bit : BitVec 3) (val : Cfg → Bool) : Prop :=
  AcceptedOn i p ok ∧ AcquiresFor i p .rd ∧ ReadHalf i p 0 (fun _ => True) addr ∧ WriteHalfEnds i p addr bit val

/-- Every step of the `INTO_*` command `i` that installs `m` on pin `q` (R115), under a well-formed configuration: it is
accepted in every tag; for each entry `(f, v)` of `CFG.MODESEQ(m)`, the gate is acquired, the register
`CFG.ADDR(f, bank(q))` is read and written back with bit `bitpos(q)` made `v`; after an entry that is not the last the port
waits for the gate afresh; after the last, `MODE[q] <- m` and the answer is `OK`; a failing transfer ends the command with
`BUS_ERROR` and no change of `MODE`. -/
def ModeCommand (i : Instr) (q : Pin) (m : Mode) : Prop :=
  AcceptedOn i (pinPort q) (fun s => s.cfg.wf = true) ∧
  ∀ (s : State) (ms : List Move) (k : Fin 3) (f : Family) (v : Bool), s.cfg.wf = true →
    (modeSeqOf s.cfg m)[k.val]? = some (f, v) →
    (s.env.moves = .acq (pinPort q) :: ms → AtPhase s (pinPort q) .wait k.val → s.gate.locked = false →
      exec i s = .next (withMoves (granted s (pinPort q) .rd) ms)) ∧
    ReadHalf i (pinPort q) k.val (fun t => t = s) (fun c => addrOf c f (bank q)) ∧
    ∀ (ans : Option WriteAnswer) (b w : Byte), s.env.moves = .busWr (pinPort q) ans :: ms →
      AtPhase s (pinPort q) .wr k.val → Owns s (pinPort q) → s.port[pinPort q].tmp = some b →
      w = merge b (bitpos q) v →
      (∀ t (k' : Fin 3), k'.val = k.val + 1 → k'.val < (modeSeqOf s.cfg m).length →
        writeReply s (addrOf s.cfg f (bank q)) w ans = (.ok, t) →
        exec i s =
          .next (withMoves (waitingAgain (didWrite s (pinPort q) (addrOf s.cfg f (bank q)) w .ok t) (pinPort q) k') ms)) ∧
      (∀ t, k.val + 1 = (modeSeqOf s.cfg m).length →
        writeReply s (addrOf s.cfg f (bank q)) w ans = (.ok, t) →
        exec i s =
          .next (withMoves
            (answered
              { ended (didWrite s (pinPort q) (addrOf s.cfg f (bank q)) w .ok t) (pinPort q) with mode := s.mode.set q m }
              (pinPort q) s.port[pinPort q].cw 0 0) ms)) ∧
      (∀ e t, writeReply s (addrOf s.cfg f (bank q)) w ans = (.err e, t) →
        exec i s =
          .next (withMoves
            (answered (ended (didWrite s (pinPort q) (addrOf s.cfg f (bank q)) w (.err e) t) (pinPort q))
              (pinPort q) s.port[pinPort q].cw 1 e) ms))

/-- ADVANCE of port `p`, whose command is `i`, after a micro-operation that ended with `Ok`, written out (R104): on to the
next micro-operation, or the command completes, installs its mode if it has one, and is answered `OK` with `v`. -/
def AdvancedTo (i : Instr) (p : Port) (v : Byte) (s s' : State) : Prop :=
  if s.port[p].k.val + 1 < (plan s.cfg p i).length then
    ∃ k : Fin 3, k.val = s.port[p].k.val + 1 ∧ s' = waitingAgain s p k
  else
    match installs i with
    | some m => ∃ q : Pin, p = pinPort q ∧
        s' = answered { ended s p with mode := s.mode.set q m } p s.port[p].cw 0 v
    | none => s' = answered (ended s p) p s.port[p].cw 0 v

/-- The value of the `OK` response of a command whose read returned `b` (R72). -/
def readValue (i : Instr) (p : Port) (b : Byte) : Byte :=
  match i with
  | .rdreg _   => b
  | .irqStatus => b
  | .isHigh    => if b.getLsbD (p.val % 8) then 0x01 else 0x00
  | .isLow     => if b.getLsbD (p.val % 8) then 0x00 else 0x01
  | _          => 0x00

/-- The register address that the next move stores to at the reference target, if any: the address of the write transfer,
or the status register that a read clears (R62, R63 (b)). -/
def storedTo (s : State) : Option Byte :=
  match s.env.moves with
  | .busRd p _ :: _ =>
    match currentOp s p with
    | some (.read a)    => if a = addrOf s.cfg .intStatus .low ∨ a = addrOf s.cfg .intStatus .high then some a else none
    | some (.rmw a _ _) => if a = addrOf s.cfg .intStatus .low ∨ a = addrOf s.cfg .intStatus .high then some a else none
    | _                 => none
  | .busWr p _ :: _ =>
    match currentOp s p with
    | some (.write a _) => some a
    | some (.rmw a _ _) => some a
    | _                 => none
  | _ => none

/-- The port whose step the next move is (R12). -/
def movingPort (s : State) : Option Port :=
  match s.env.moves with
  | .submit p _ :: _ => some p
  | .acq p :: _      => some p
  | .busRd p _ :: _  => some p
  | .busWr p _ :: _  => some p
  | _                => none

/-- What the step of a command leaves as it was, whatever step it is: the handles, the count, the device address, the
configuration, every other port's record, the gate at SUBMIT, and every register of the reference target but the one stored
to. `HIST` keeps what it held. That the target's registers are kept where the move carries the answer itself is the model's
choice (log 20). -/
def TransactionFrame (s s' : State) : Prop :=
  s'.live = s.live ∧ s'.refcnt = s.refcnt ∧ s'.devaddr = s.devaddr ∧ s'.cfg = s.cfg ∧
  (∀ p, movingPort s ≠ some p → s'.port[p] = s.port[p]) ∧
  (∀ p cw ms, s.env.moves = .submit p cw :: ms → s'.gate = s.gate ∧ s'.env.target = s.env.target) ∧
  (∃ es, s'.hist = s.hist ++ es) ∧
  (∀ a, storedTo s ≠ some a → regOf s' a = regOf s a)

end Sys2Proof.Claims

open Sys2Proof Sys2Proof.Machine Sys2Proof.Claims

/-! ### Encoding -/

/-- R65, R66, R68: decoding the word of an instruction gives that instruction, for every instruction and every value of its
operands. -/
def Obligations.DecodeEncodeRoundTrip : Prop := ∀ i : Instr, decode (encode i) = .ok i

/-- R65, R70: a word that decodes is the word of the instruction it decodes to, so no bit of it is ignored. -/
def Obligations.DecodedWordIsItsEncoding : Prop :=
  ∀ (cw : CmdWord) (i : Instr), decode cw = .ok i → encode i = cw

/-- R68 and the vectors of 95_test_vectors.md: words written out from the spec, and what they decode to. -/
def Obligations.SampleWordsDecode : Prop :=
  decode 0x083F00 = .ok (.new 0x3F) ∧ decode 0x100000 = .ok .split ∧ decode 0x180000 = .ok .drop ∧
  decode 0x401000 = .ok (.rdreg 0x10) ∧ decode 0x480EFF = .ok (.wrreg 0x0E 0xFF) ∧
  decode 0x57FF01 = .ok (.modbit 0xFF 7 true) ∧ decode 0x900000 = .ok .intoInputPu ∧
  decode 0xA80000 = .ok .intoOutputOd ∧ decode 0xC80000 = .ok .setHigh ∧ decode 0xD00000 = .ok .isLow ∧
  decode 0xE80000 = .ok .irqArm ∧ decode 0xF00000 = .ok .irqStatus

/-- R69: exactly 14 opcodes select no command, and a word with one of them, submitted on an idle port, is answered
`Illegal`, with no other change of the block's state and no transfer. The all-zero word is one. -/
def Obligations.UnassignedOpcodeIsIllegal : Prop :=
  (∀ op : BitVec 5,
    (∀ cw, fieldOp cw = op → ∃ e, decode cw = .error e) ↔
      op.toNat ∈ [0, 4, 5, 6, 7, 11, 12, 13, 14, 15, 16, 22, 23, 31]) ∧
  (∀ (s : State) (p : Port) (cw : CmdWord) (ms : List Move), s.env.moves = .submit p cw :: ms →
    s.port[p].busy = false → (fieldOp cw).toNat ∈ [0, 4, 5, 6, 7, 11, 12, 13, 14, 15, 16, 22, 23, 31] →
    step s = .next (withMoves (answered s p cw 4 0) ms)) ∧
  (fieldOp 0x000000).toNat = 0

/-- R70: a word whose opcode is assigned but in which a field that its format requires to be zero is not zero, submitted on
an idle port, is answered `Illegal`, with no other change of the block's state and no transfer. -/
def Obligations.ReservedFieldNotZeroIsIllegal : Prop :=
  ∀ (s : State) (p : Port) (cw : CmdWord) (ms : List Move), s.env.moves = .submit p cw :: ms →
    s.port[p].busy = false →
    ((fieldOp cw).toNat ∈ [2, 3, 17, 18, 19, 20, 21, 24, 25, 26, 27, 28, 29, 30] ∧
        (fieldBit cw ≠ 0 ∨ fieldA cw ≠ 0 ∨ fieldD cw ≠ 0)) ∨
      ((fieldOp cw).toNat ∈ [1, 8] ∧ (fieldBit cw ≠ 0 ∨ fieldD cw ≠ 0)) ∨
      ((fieldOp cw).toNat = 9 ∧ fieldBit cw ≠ 0) ∨
      ((fieldOp cw).toNat = 10 ∧ (fieldD cw).extractLsb' 1 7 ≠ 0) →
    step s = .next (withMoves (answered s p cw 4 0) ms)

/-- R71: a command on a port of the wrong class, submitted on an idle port, is answered `Illegal`; `DROP` is accepted on
every port whose handle is live. -/
def Obligations.PortClassIsEnforced : Prop :=
  (∀ (s : State) (p : Port) (i : Instr) (ms : List Move), s.env.moves = .submit p (encode i) :: ms →
    s.port[p].busy = false → WrongPort p i → step s = .next (withMoves (answered s p (encode i) 4 0) ms)) ∧
  (∀ (s : State) (p : Port) (ms : List Move), s.env.moves = .submit p (encode .drop) :: ms →
    s.port[p].busy = false → s.live[p] = true →
    step s = .next (withMoves (answered (lifecycleEffect s p .drop) p (encode .drop) 0 0) ms))

/-- R72, R160: the response word is the status code in its top 4 bits and the value in its low 8, with the five codes. -/
def Obligations.ResponseWordLayout : Prop :=
  (∀ (st : Status) (v : Byte),
    (responseWord st v).extractLsb' 8 4 = statusCode st ∧ (responseWord st v).extractLsb' 0 8 = v) ∧
  statusCode .ok = 0 ∧ statusCode .busError = 1 ∧ statusCode .modeError = 2 ∧ statusCode .initError = 3 ∧
  statusCode .illegal = 4

/-! ### The step relation -/

/-- R16, R23, R100 to R103: where the word of the next move, submitted on an idle port or latched by a busy one, decodes
to an instruction, the step is that instruction's. -/
def Obligations.StepRunsDecodedInstruction : Prop :=
  (∀ (s : State) (p : Port) (cw : CmdWord) (ms : List Move) (i : Instr), s.env.moves = .submit p cw :: ms →
    s.port[p].busy = false → decode cw = .ok i → step s = exec i s) ∧
  (∀ (s : State) (p : Port) (ms : List Move) (i : Instr),
    (s.env.moves = .acq p :: ms ∨ (∃ r, s.env.moves = .busRd p r :: ms) ∨ ∃ r, s.env.moves = .busWr p r :: ms) →
    s.port[p].busy = true → decode s.port[p].cw = .ok i → step s = exec i s)

/-- Log 15 (the model's own): a word placed by `withFetchWord` is the next command, on `PD` for the device groups and on
pin port 0 for the pin groups, where that port is idle. -/
def Obligations.PlacedWordRunsNext : Prop :=
  ∀ (s : State) (i : Instr) (p : Port),
    p = (if portClass i = .pin then 0 else 16) → s.port[p].busy = false →
    step (s.withFetchWord 24 (encode i).toNat) = exec i (withMoves s (.submit p (encode i) :: s.env.moves))

/-- R100: SUBMIT runs its checks in the order of the rule and stops at the first that applies; a command with an empty plan
has its effect in the same step; any other is latched. On a busy port there is no such step. -/
def Obligations.SubmitChecksInOrder : Prop :=
  ∀ (s : State) (p : Port) (cw : CmdWord) (ms : List Move), s.env.moves = .submit p cw :: ms → s.cfg.wf = true →
    (s.port[p].busy = true → ∀ s', step s ≠ .next s') ∧
    (s.port[p].busy = false →
      (∀ e, decode cw = .error e → step s = .next (withMoves (answered s p cw 4 0) ms)) ∧
      (∀ i, decode cw = .ok i →
        (WrongPort p i → step s = .next (withMoves (answered s p cw 4 0) ms)) ∧
        (¬ WrongPort p i → WrongLiveness s p i → step s = .next (withMoves (answered s p cw 4 0) ms)) ∧
        (¬ WrongPort p i → ¬ WrongLiveness s p i → BadAddress i →
          step s = .next (withMoves (answered s p cw 3 0) ms)) ∧
        (¬ WrongPort p i → ¬ WrongLiveness s p i → WrongMode s p i →
          step s = .next (withMoves (answered s p cw 2 0) ms)) ∧
        (¬ WrongPort p i → ¬ WrongLiveness s p i → ¬ BadAddress i → ¬ WrongMode s p i →
          (IsLifecycle i → step s = .next (withMoves (answered (lifecycleEffect s p i) p cw 0 0) ms)) ∧
          (¬ IsLifecycle i → step s = .next (withMoves (accepted s p cw) ms)))))

/-- R101: ACQ of a busy port in phase `WAIT` takes the free gate in one step and puts the port in phase `WR` where the
micro-operation is a write and in `RD` elsewhere; in a situation that is neither this nor a held gate there is no such step.
That with the gate held the move is a step which leaves the block's state as it is, where the rule has no step, is the
model's choice (log 5). -/
def Obligations.AcquireNeedsFreeGate : Prop :=
  ∀ (s : State) (p : Port) (ms : List Move), s.env.moves = .acq p :: ms →
    (s.port[p].busy = true → s.port[p].ph = .wait → s.gate.locked = false →
      (∀ a v, currentOp s p = some (.write a v) → step s = .next (withMoves (granted s p .wr) ms)) ∧
      (∀ a, currentOp s p = some (.read a) → step s = .next (withMoves (granted s p .rd) ms)) ∧
      (∀ a b v, currentOp s p = some (.rmw a b v) → step s = .next (withMoves (granted s p .rd) ms))) ∧
    (s.gate.locked = true → ∀ s', step s = .next s' → SameBlock s s') ∧
    (s.port[p].busy = false ∨ s.port[p].ph ≠ .wait → ∀ s', step s ≠ .next s')

/-- R102, R104, R105: BUS_RD of the port that owns the gate makes one read transfer; a failure releases the gate and ends
the command with the transport's error; the byte of a read-modify-write is latched with the gate still held; the byte of a
read releases the gate and the command advances. In any other situation there is no such step. -/
def Obligations.BusReadStep : Prop :=
  ∀ (s : State) (p : Port) (ans : Option ReadAnswer) (ms : List Move), s.env.moves = .busRd p ans :: ms →
    s.cfg.wf = true →
    (s.port[p].busy = true → s.port[p].ph = .rd → Owns s p →
      ∀ (i : Instr), decode s.port[p].cw = .ok i →
      (∀ a e t, (currentOp s p = some (.read a) ∨ ∃ b v, currentOp s p = some (.rmw a b v)) →
        readReply s a ans = (.err e, t) →
        step s = .next (withMoves (answered (ended (didRead s p a (.err e) t) p) p s.port[p].cw 1 e) ms)) ∧
      (∀ a b v x t, currentOp s p = some (.rmw a b v) → readReply s a ans = (.ok x, t) →
        step s = .next (withMoves (latched (didRead s p a (.ok x) t) p x) ms)) ∧
      (∀ a x t, currentOp s p = some (.read a) → readReply s a ans = (.ok x, t) →
        ∃ s', AdvancedTo i p (readValue i p x) (didRead s p a (.ok x) t) s' ∧ step s = .next (withMoves s' ms))) ∧
    (s.port[p].busy = false ∨ s.port[p].ph ≠ .rd ∨ ¬ Owns s p → ∀ s', step s ≠ .next s')

/-- R103, R104, R105: BUS_WR of the port that owns the gate makes one write transfer, of the operand byte or of the latched
byte with one bit replaced, and releases the gate in every case; a failure ends the command with the transport's error; a
success advances it. In any other situation there is no such step. -/
def Obligations.BusWriteStep : Prop :=
  ∀ (s : State) (p : Port) (ans : Option WriteAnswer) (ms : List Move), s.env.moves = .busWr p ans :: ms →
    s.cfg.wf = true →
    (s.port[p].busy = true → s.port[p].ph = .wr → Owns s p →
      ∀ (i : Instr) (a w : Byte), decode s.port[p].cw = .ok i →
      (currentOp s p = some (.write a w) ∨
        ∃ b v x, currentOp s p = some (.rmw a b v) ∧ s.port[p].tmp = some x ∧ w = merge x b v) →
      (∀ e t, writeReply s a w ans = (.err e, t) →
        step s = .next (withMoves (answered (ended (didWrite s p a w (.err e) t) p) p s.port[p].cw 1 e) ms)) ∧
      (∀ t, writeReply s a w ans = (.ok, t) →
        ∃ s', AdvancedTo i p 0 (didWrite s p a w .ok t) s' ∧ step s = .next (withMoves s' ms))) ∧
    (s.port[p].busy = false ∨ s.port[p].ph ≠ .wr ∨ ¬ Owns s p → ∀ s', step s ≠ .next s')

/-! ### The lifecycle commands -/

/-- R145: `NEW a` on an idle `PD` with no device is answered `INIT_ERROR` and changes nothing where `a[7] = 1`; elsewhere
it sets `DEVADDR`, `LIVE[16]` and `REFCNT` and is answered `OK`. With a device it is `ILLEGAL`, and so on a pin port. It
makes no transfer and does not look at the gate. -/
def Obligations.NewConstructsDevice : Prop :=
  ∀ (s : State) (a : Byte) (p : Port) (ms : List Move), s.env.moves = .submit p (encode (.new a)) :: ms →
    s.port[p].busy = false →
    (p = 16 → s.refcnt = 0 → a.getLsbD 7 = false →
      exec (.new a) s =
        .next (withMoves
          (answered { s with devaddr := a.extractLsb' 0 7, live := s.live.set 16 true, refcnt := 1 } p
            (encode (.new a)) 0 0) ms)) ∧
    (p = 16 → s.refcnt = 0 → a.getLsbD 7 = true →
      exec (.new a) s = .next (withMoves (answered s p (encode (.new a)) 3 0) ms)) ∧
    (p ≠ 16 ∨ s.refcnt ≠ 0 → exec (.new a) s = .next (withMoves (answered s p (encode (.new a)) 4 0) ms))

/-- R146: `SPLIT` on an idle `PD` whose handle is live makes the 16 pin handles live and `Unconfigured`, ends the device
handle, sets `REFCNT` to 16 and is answered `OK`, with nothing else changed and no transfer; with the handle dead, or on a
pin port, it is `ILLEGAL`. -/
def Obligations.SplitYieldsSixteenPins : Prop :=
  ∀ (s : State) (p : Port) (ms : List Move), s.env.moves = .submit p (encode .split) :: ms → s.port[p].busy = false →
    (p = 16 → s.live[p] = true →
      ∃ s', exec .split s = .next s' ∧ (∀ q : Pin, s'.live[pinPort q] = true ∧ s'.mode[q] = .unconfigured) ∧
        s'.live[(16 : Port)] = false ∧ s'.refcnt = 16 ∧
        s' = withMoves (answered { s with live := s'.live, mode := s'.mode, refcnt := s'.refcnt } p (encode .split) 0 0) ms) ∧
    (p ≠ 16 ∨ s.live[p] = false → exec .split s = .next (withMoves (answered s p (encode .split) 4 0) ms))

/-- R147: `DROP` on an idle port whose handle is live ends the handle, lowers `REFCNT` by one and is answered `OK`, with
nothing else changed and no transfer; with the handle dead it is `ILLEGAL`. -/
def Obligations.DropEndsHandle : Prop :=
  ∀ (s : State) (p : Port) (ms : List Move), s.env.moves = .submit p (encode .drop) :: ms → s.port[p].busy = false →
    (s.live[p] = true →
      exec .drop s =
        .next (withMoves
          (answered { s with live := s.live.set p false, refcnt := s.refcnt - 1 } p (encode .drop) 0 0) ms)) ∧
    (s.live[p] = false → exec .drop s = .next (withMoves (answered s p (encode .drop) 4 0) ms))

/-! ### The engine commands -/

/-- R85: every step of `RDREG a` on `PD`, for every address: one read transfer, whose byte is the value of the `OK`
response. -/
def Obligations.RdregReadsRegister : Prop := ∀ a : Byte, ReadCommand (.rdreg a) 16 (fun _ => a) (fun b => b)

/-- R86: every step of `WRREG a, d` on `PD`, for every address and byte: one write transfer and no read. -/
def Obligations.WrregWritesRegister : Prop :=
  ∀ a d : Byte, AcceptedOn (.wrreg a d) 16 (fun _ => True) ∧ AcquiresFor (.wrreg a d) 16 .wr ∧
    WriteEnds (.wrreg a d) 16 a d

/-- R87: every step of `MODBIT a, b, v` on `PD`, for every address, bit index and value: a read transfer, then a write of
the byte read with bit `b` replaced by `v`, also where that changes nothing; no write where the read failed. -/
def Obligations.ModbitMergesOneBit : Prop :=
  ∀ (a : Byte) (b : BitVec 3) (v : Bool),
    RmwCommand (.modbit a b v) 16 (fun _ => True) (fun _ => a) b (fun _ => v)

/-! ### The pin commands -/

/-- R115 to R118: every step of `INTO_INPUT`, `INTO_INPUT_PU` and `INTO_INPUT_PD` on every pin, and the reference value of
their sequences. -/
def Obligations.IntoInputModesInstallTag : Prop :=
  (∀ q : Pin, ModeCommand .intoInput q .input ∧ ModeCommand .intoInputPu q .inputPullUp ∧
    ModeCommand .intoInputPd q .inputPullDown) ∧
  modeSeqOf refCfg .input = [(.pullup, false), (.pulldown, false), (.dir, true)] ∧
  modeSeqOf refCfg .inputPullUp = [(.pulldown, false), (.pullup, true), (.dir, true)] ∧
  modeSeqOf refCfg .inputPullDown = [(.pullup, false), (.pulldown, true), (.dir, true)]

/-- R115, R119, R120: every step of `INTO_OUTPUT` and `INTO_OUTPUT_OD` on every pin, and the reference value of their
sequences. -/
def Obligations.IntoOutputModesInstallTag : Prop :=
  (∀ q : Pin, ModeCommand .intoOutput q .output ∧ ModeCommand .intoOutputOd q .outputOpenDrain) ∧
  modeSeqOf refCfg .output = [(.openDrain, false), (.dir, false)] ∧
  modeSeqOf refCfg .outputOpenDrain = [(.openDrain, true), (.dir, false)]

/-- R125, R126: every step of `SET_HIGH` and `SET_LOW` on every pin whose tag is an output mode: a read-modify-write of the
pin's bit of the data register, to 1 and to 0. -/
def Obligations.SetCommandsWriteDataBit : Prop :=
  ∀ q : Pin,
    RmwCommand .setHigh (pinPort q) (fun s => s.mode[q] = .output ∨ s.mode[q] = .outputOpenDrain)
      (fun c => addrOf c .data (bank q)) (bitpos q) (fun _ => true) ∧
    RmwCommand .setLow (pinPort q) (fun s => s.mode[q] = .output ∨ s.mode[q] = .outputOpenDrain)
      (fun c => addrOf c .data (bank q)) (bitpos q) (fun _ => false)

/-- R130: `SET_HIGH` and `SET_LOW` on an idle live pin port whose tag is `Unconfigured` or an input mode are answered
`MODE_ERROR`, with no transfer, no gate and no other change; the chip is not asked. -/
def Obligations.SetCommandsCheckTheTag : Prop :=
  ∀ (s : State) (q : Pin) (i : Instr) (ms : List Move), (i = .setHigh ∨ i = .setLow) →
    s.env.moves = .submit (pinPort q) (encode i) :: ms → s.port[pinPort q].busy = false →
    s.live[pinPort q] = true →
    (s.mode[q] = .unconfigured ∨ s.mode[q] = .input ∨ s.mode[q] = .inputPullUp ∨ s.mode[q] = .inputPullDown) →
    exec i s = .next (withMoves (answered s (pinPort q) (encode i) 2 0) ms)

/-- R127, R128, R129: every step of `IS_HIGH` and `IS_LOW` on every pin and in every tag: one fresh read of the data
register; the value is the pin's bit, or its complement, as 0x01 or 0x00. -/
def Obligations.IsCommandsReadDataBit : Prop :=
  ∀ q : Pin,
    ReadCommand .isHigh (pinPort q) (fun c => addrOf c .data (bank q))
      (fun b => if b.getLsbD (q.val % 8) then 0x01 else 0x00) ∧
    ReadCommand .isLow (pinPort q) (fun c => addrOf c .data (bank q))
      (fun b => if b.getLsbD (q.val % 8) then 0x00 else 0x01)

/-- R135, R136: every step of `IRQ_ARM` and `IRQ_DISARM` on every pin and in every tag: a read-modify-write of the pin's
mask bit, to `CFG.IRQ_ARMED` and to its complement. -/
def Obligations.IrqMaskCommandsAssignMaskBit : Prop :=
  ∀ q : Pin,
    RmwCommand .irqArm (pinPort q) (fun _ => True) (fun c => addrOf c .intMask (bank q)) (bitpos q)
      (fun c => c.irqArmed) ∧
    RmwCommand .irqDisarm (pinPort q) (fun _ => True) (fun c => addrOf c .intMask (bank q)) (bitpos q)
      (fun c => !c.irqArmed)

/-- R137: every step of `IRQ_STATUS` on every pin and in every tag: one read of the bank's status register and no write;
the response carries the whole byte. -/
def Obligations.IrqStatusReturnsBankByte : Prop :=
  ∀ q : Pin, ReadCommand .irqStatus (pinPort q) (fun c => addrOf c .intStatus (bank q)) (fun b => b)

/-! ### Whole commands -/

/-- R85, R127, R128, R137, R214: with the gate free, a command whose plan is one read runs from SUBMIT to its response in
three steps and one transfer, whatever the handle's tag. The clause on `env` is the model's choice: the count of transfers
is its own (log 13), and a transfer whose answer the move carries leaves the attached target as it is (log 20). -/
def Obligations.ReadCommandRunsToResponse : Prop :=
  ∀ (s : State) (p : Port) (i : Instr) (a b : Byte) (ms : List Move), plan s.cfg p i = [.read a] → ¬ WrongPort p i →
    s.port[p].busy = false → s.live[p] = true → s.gate.locked = false →
    ∃ t, Host.Core.run Sys2Proof.core 3
        (withMoves s (.submit p (encode i) :: .acq p :: .busRd p (some (.ok b)) :: ms)) = .next t ∧
      t.hist = s.hist ++ [.busWtr p s.devaddr [a] (.ok b), .resp p (encode i) (0#4 ++ readValue i p b)] ∧
      t.env = { s.env with moves := ms, transfers := s.env.transfers + 1 } ∧
      t.gate.locked = false ∧ t.port[p].busy = false ∧ t.live = s.live ∧ t.refcnt = s.refcnt ∧ t.mode = s.mode ∧
      t.devaddr = s.devaddr ∧ t.cfg = s.cfg ∧ ∀ q, q ≠ p → t.port[q] = s.port[q]

/-- R87, R125, R126, R135, R136, R214: with the gate free, a command whose plan is one read-modify-write runs from SUBMIT
to its response in four steps and two transfers, the second writing the byte read with one bit replaced. The clause on `env`
is the model's choice: the count of transfers is its own (log 13), and a transfer whose answer the move carries leaves the
attached target as it is (log 20). -/
def Obligations.RmwCommandRunsToResponse : Prop :=
  ∀ (s : State) (p : Port) (i : Instr) (a b : Byte) (j : BitVec 3) (v : Bool) (ms : List Move),
    plan s.cfg p i = [.rmw a j v] → ¬ IsModeCommand i → ¬ WrongPort p i → ¬ WrongMode s p i →
    s.port[p].busy = false → s.live[p] = true → s.gate.locked = false →
    ∃ t, Host.Core.run Sys2Proof.core 4
        (withMoves s (.submit p (encode i) :: .acq p :: .busRd p (some (.ok b)) :: .busWr p (some .ok) :: ms)) = .next t ∧
      t.hist = s.hist ++ [.busWtr p s.devaddr [a] (.ok b), .busW p s.devaddr [a, merge b j v] .ok,
        .resp p (encode i) (0#4 ++ 0#8)] ∧
      t.env = { s.env with moves := ms, transfers := s.env.transfers + 2 } ∧
      t.gate.locked = false ∧ t.port[p].busy = false ∧ t.live = s.live ∧ t.refcnt = s.refcnt ∧ t.mode = s.mode ∧
      t.devaddr = s.devaddr ∧ t.cfg = s.cfg ∧ ∀ q, q ≠ p → t.port[q] = s.port[q]

/-- R115, R214: with the gate free at each acquisition, an `INTO_*` command runs from SUBMIT through one read and one write
for each entry of `CFG.MODESEQ(m)`, in order, whatever bytes the reads return, to the response `OK` and the new tag: the
length of the sequence is that of the configuration, and the transfers are twice as many. The clause on `env` is the model's
choice: the count of transfers is its own (log 13), and a transfer whose answer the move carries leaves the attached target
as it is (log 20). -/
def Obligations.ModeCommandRunsToResponse : Prop :=
  ∀ (s : State) (q : Pin) (i : Instr) (m : Mode) (bs : List Byte) (ms : List Move), installs i = some m →
    s.cfg.wf = true → s.port[pinPort q].busy = false → s.live[pinPort q] = true → s.gate.locked = false →
    bs.length = (modeSeqOf s.cfg m).length →
    ∃ t, Host.Core.run Sys2Proof.core (1 + 3 * bs.length)
        (withMoves s (.submit (pinPort q) (encode i) ::
          (bs.flatMap fun b => [.acq (pinPort q), .busRd (pinPort q) (some (.ok b)), .busWr (pinPort q) (some .ok)]) ++ ms))
        = .next t ∧
      t.hist = s.hist ++
        (((modeSeqOf s.cfg m).zip bs).flatMap fun e =>
          [.busWtr (pinPort q) s.devaddr [addrOf s.cfg e.1.1 (bank q)] (.ok e.2),
           .busW (pinPort q) s.devaddr [addrOf s.cfg e.1.1 (bank q), merge e.2 (bitpos q) e.1.2] .ok]) ++
        [.resp (pinPort q) (encode i) (0#4 ++ 0#8)] ∧
      t.env = { s.env with moves := ms, transfers := s.env.transfers + 2 * bs.length } ∧
      t.mode = s.mode.set q m ∧ t.gate.locked = false ∧ t.port[pinPort q].busy = false ∧ t.live = s.live ∧
      t.refcnt = s.refcnt ∧ t.devaddr = s.devaddr ∧ t.cfg = s.cfg ∧ ∀ p, p ≠ pinPort q → t.port[p] = s.port[p]

/-! ### Frames -/

/-- R113, R145 to R147: what a lifecycle command leaves as it was when it answers a next state: the gate, the target, every
port's record, the configuration, and of the handles, tags, count and address all but what its rule writes: `NEW` no tag and
no pin handle, `SPLIT` no address, `DROP` no tag, no address and no other handle. -/
def Obligations.LifecycleFrame : Prop :=
  ∀ (s s' : State) (i : Instr) (p : Port) (cw : CmdWord) (ms : List Move), IsLifecycle i →
    s.env.moves = .submit p cw :: ms → exec i s = .next s' →
    s'.gate = s.gate ∧ s'.port = s.port ∧ s'.cfg = s.cfg ∧ s'.env = { s.env with moves := ms } ∧
    (∃ st v, s'.hist = s.hist ++ [.resp p cw (responseWord st v)]) ∧
    (∀ a, i = .new a → s'.mode = s.mode ∧ ∀ q : Pin, s'.live[pinPort q] = s.live[pinPort q]) ∧
    (i = .split → s'.devaddr = s.devaddr) ∧
    (i = .drop → s'.mode = s.mode ∧ s'.devaddr = s.devaddr ∧ ∀ x, x ≠ p → s'.live[x] = s.live[x])

/-- R85 to R87, R125 to R128, R135 to R137: what the step of an engine, data or interrupt command leaves as it was when it
answers a next state: every tag, and what `TransactionFrame` lists. For a transfer whose answer the move carries, the clause
on the target's registers is the model's choice (log 20). -/
def Obligations.TransactionCommandFrame : Prop :=
  ∀ (s s' : State) (i : Instr), ¬ IsLifecycle i → ¬ IsModeCommand i → s.cfg.wf = true →
    (∀ t, s.env.target = some t → Memory.wf t.reg = true) →
    (∀ p, movingPort s = some p → s.port[p].busy = true → decode s.port[p].cw = .ok i) →
    exec i s = .next s' → s'.mode = s.mode ∧ TransactionFrame s s'

/-- R115, R121: what the step of an `INTO_*` command leaves as it was when it answers a next state: every tag but that of
its own pin, and what `TransactionFrame` lists. For a transfer whose answer the move carries, the clause on the target's
registers is the model's choice (log 20). -/
def Obligations.ModeCommandFrame : Prop :=
  ∀ (s s' : State) (i : Instr), IsModeCommand i → s.cfg.wf = true →
    (∀ t, s.env.target = some t → Memory.wf t.reg = true) →
    (∀ p, movingPort s = some p → s.port[p].busy = true → decode s.port[p].cw = .ok i) →
    exec i s = .next s' →
    (∀ q : Pin, movingPort s ≠ some (pinPort q) → s'.mode[q] = s.mode[q]) ∧ TransactionFrame s s'

/-! ### Reset -/

/-- R31: after reset, the values the spec gives: no handle, no reference, the gate free, every port idle with no byte
latched, the history empty. -/
def Obligations.ResetValuesOfTheSpec : Prop :=
  (∀ p : Port, State.reset.live[p] = false ∧ State.reset.port[p].busy = false ∧ State.reset.port[p].tmp = none) ∧
  State.reset.refcnt = 0 ∧ State.reset.gate.locked = false ∧ State.reset.hist = [] ∧ life State.reset = .empty

/-- R190: in the reset state exactly one command is accepted, `NEW` on port `PD` (with `a[7] = 1` it is answered
`INIT_ERROR`); every other word on every port is answered `ILLEGAL`. -/
def Obligations.ResetAcceptsOnlyNew : Prop :=
  ∀ (c : Cfg) (e : Env) (p : Port) (cw : CmdWord) (ms : List Move) (s : State),
    s = withMoves { State.reset with cfg := c, env := e } (.submit p cw :: ms) → c.wf = true →
    (∀ a : Byte, p = 16 → decode cw = .ok (.new a) → a.getLsbD 7 = false →
      ∃ t, step s = .next t ∧ t.hist = [.resp p cw 0x000] ∧ t.refcnt = 1 ∧ t.live[(16 : Port)] = true ∧
        t.devaddr = a.extractLsb' 0 7) ∧
    (∀ a : Byte, p = 16 → decode cw = .ok (.new a) → a.getLsbD 7 = true →
      step s = .next (withMoves (answered s p cw 3 0) ms)) ∧
    ((p ≠ 16 ∨ ∀ a, decode cw ≠ .ok (.new a)) → step s = .next (withMoves (answered s p cw 4 0) ms))

/-- Every start of a run meets the invariant (R190, R30). -/
def Obligations.StartMeetsInvariant : Prop := (∀ s, Start s → Inv s) ∧ Inv State.reset

/-! ### The whole machine -/

/-- R30: every step keeps the invariant, from every state that meets it. -/
def Obligations.StepKeepsInvariant : Prop := ∀ s s' : State, Inv s → step s = .next s' → Inv s'

/-- R30 (a) to (h), in its own words, of every reachable state. -/
def Obligations.ReachableStatesMeetTheRule : Prop :=
  ∀ s : State, Reachable s →
    (s.live[(16 : Port)] = true → ∀ p : Port, p.val < 16 → s.live[p] = false) ∧
    s.refcnt.toNat = s.live.toList.count true ∧
    (∀ p : Port, s.port[p].busy = true → s.live[p] = true) ∧
    (s.gate.locked = true → s.port[s.gate.owner].busy = true ∧
      (s.port[s.gate.owner].ph = .rd ∨ s.port[s.gate.owner].ph = .wr)) ∧
    (∀ p q : Port, s.port[p].busy = true → s.port[p].ph ≠ .wait → s.port[q].busy = true → s.port[q].ph ≠ .wait →
      p = q ∧ s.gate.locked = true ∧ s.gate.owner = p) ∧
    (s.gate.locked = false → ∀ p : Port, s.port[p].busy = true → s.port[p].ph = .wait) ∧
    (∀ q : Pin, s.live[pinPort q] = true → (modeTag s.mode[q]).toNat ≤ 5) ∧
    (∀ p : Port, s.port[p].busy = true →
      ∃ i, decode s.port[p].cw = .ok i ∧ s.port[p].k.val < (plan s.cfg p i).length)

/-- U12, U13: from a state that meets the invariant no step faults, whatever the next move is. -/
def Obligations.InvariantExcludesFaults : Prop := ∀ (s : State) (r : Fault), Inv s → step s ≠ .fault r

/-- R106: in every reachable state at most one port is in phase `RD` or `WR`, and that port owns the gate. -/
def Obligations.AtMostOneTransaction : Prop :=
  ∀ s : State, Reachable s → ∀ p q : Port, s.port[p].busy = true → s.port[p].ph ≠ .wait →
    Owns s p ∧ (s.port[q].busy = true → s.port[q].ph ≠ .wait → q = p)

/-- R54: after the read half of a read-modify-write, whatever moves follow and however many steps are made, either no
transfer has been made, or the first that was made is the write half by the same port, of the byte read with the one bit
replaced. -/
def Obligations.ReadModifyWriteIsAdjacent : Prop :=
  ∀ (n : Nat) (s t : State) (p : Port) (a x : Byte) (b : BitVec 3) (v : Bool), Inv s → Owns s p →
    s.port[p].ph = .wr → currentOp s p = some (.rmw a b v) → s.port[p].tmp = some x →
    Host.Core.run Sys2Proof.core n s = .next t →
    busEvents t.hist = busEvents s.hist ∨
      ∃ r es, busEvents t.hist = busEvents s.hist ++ .busW p s.devaddr [a, merge x b v] r :: es

/-- R108: deadlock is impossible: in a state that meets the invariant and has a busy port, some port has an enabled step
that brings its command forward, whatever the environment answers. -/
def Obligations.SomePortCanAlwaysStep : Prop :=
  ∀ s : State, Inv s → (∃ p : Port, s.port[p].busy = true) →
    ∃ p : Port, s.port[p].busy = true ∧
      ∀ (ms : List Move) (r : Option ReadAnswer) (w : Option WriteAnswer),
        ∃ m ∈ [Move.acq p, Move.busRd p r, Move.busWr p w],
          ∃ s', step (withMoves s (m :: ms)) = .next s' ∧ remainingSteps s' p < remainingSteps s p

/-- R112: no step but its own SUBMIT raises the number of steps a command has before it, and each of its own steps but a
wait for the gate lowers it, so no command loops; the number is never above 9. That a wait is a step at all is the model's
choice (log 5). -/
def Obligations.CommandsOnlyMoveForward : Prop :=
  ∀ (s s' : State) (p : Port), Inv s → step s = .next s' → s.port[p].busy = true →
    remainingSteps s p ≤ 9 ∧ remainingSteps s' p ≤ remainingSteps s p ∧
    (movingPort s = some p → s.port[p].ph = .wait → s.gate.locked = true → SameBlock s s') ∧
    (movingPort s = some p → s.port[p].ph ≠ .wait ∨ s.gate.locked = false →
      remainingSteps s' p < remainingSteps s p) ∧
    (movingPort s ≠ some p → s'.port[p] = s.port[p])

/-- R31, R20 to R24: an unspecified field is read by no rule before a rule writes it. Two states that meet the invariant
and differ only in such fields step to the same kind of outcome, and to states that again differ only in such fields. -/
def Obligations.UnspecifiedFieldsAreNeverRead : Prop :=
  ∀ s t : State, Inv s → Inv t → SameMeaning s t →
    (∀ s', step s = .next s' → ∃ t', step t = .next t' ∧ SameMeaning s' t') ∧
    (∀ r, step s = .refused r → step t = .refused r)

/-- R20, R59: no step changes the configuration, and none changes `DEVADDR` while a device exists. -/
def Obligations.DeviceAddressIsImmutable : Prop :=
  ∀ s s' : State, step s = .next s' → s'.cfg = s.cfg ∧ (s.refcnt ≠ 0 → s'.devaddr = s.devaddr)

/-- R147, R149: a handle that is not live becomes live only where the next move submits a word on an idle `PD`, and that word
is `NEW`, from no device, for the device handle, or `SPLIT`, from the device handle and consuming it, for the pin handles,
all with the tag `Unconfigured`. -/
def Obligations.HandlesAreNeverReissued : Prop :=
  ∀ (s s' : State) (p : Port), Inv s → step s = .next s' → s.live[p] = false → s'.live[p] = true →
    ∃ cw ms, s.env.moves = .submit 16 cw :: ms ∧ s.port[(16 : Port)].busy = false ∧
      ((∃ a, decode cw = .ok (.new a) ∧ p = 16 ∧ s.refcnt = 0 ∧ s'.refcnt = 1 ∧
          ∀ q : Pin, s'.live[pinPort q] = false) ∨
        (decode cw = .ok .split ∧ p ≠ 16 ∧ s.live[(16 : Port)] = true ∧ s'.live[(16 : Port)] = false ∧ s'.refcnt = 16 ∧
          ∀ q : Pin, s.live[pinPort q] = false ∧ s'.mode[q] = .unconfigured))

/-- R22: the tag `Unconfigured` is re-entered only through `SPLIT`, and a live pin's tag changes only when its own port
completes an `INTO_*` command. -/
def Obligations.TagChangesOnlyByItsOwnCommand : Prop :=
  ∀ (s s' : State) (q : Pin), Inv s → step s = .next s' → s.live[pinPort q] = true → s'.mode[q] ≠ s.mode[q] →
    movingPort s = some (pinPort q) ∧
    ∃ i m, decode s.port[pinPort q].cw = .ok i ∧ installs i = some m ∧ s'.mode[q] = m ∧ m ≠ .unconfigured ∧
      s'.port[pinPort q].busy = false

/-- R25, R53: `HIST` only grows; a step makes at most one transfer and gives at most one answer, and both are the moving
port's. The model's own count of transfers (log 13) rises by the `Bus` events. -/
def Obligations.HistoryOnlyGrows : Prop :=
  ∀ s s' : State, step s = .next s' →
    ∃ es, s'.hist = s.hist ++ es ∧ (busEvents es).length ≤ 1 ∧ (es.filter fun e => !isBus e).length ≤ 1 ∧
      s'.env.transfers = s.env.transfers + (busEvents es).length ∧ ∀ e ∈ es, movingPort s = some (eventPort e)

/-- R26, R72: a step of a busy port answers the command exactly when it ends it: a response is recorded exactly when the
port becomes idle. -/
def Obligations.ResponseExactlyAtTheEnd : Prop :=
  ∀ (s s' : State) (p : Port), Inv s → step s = .next s' → s.port[p].busy = true →
    (s'.port[p].busy = false ↔ ∃ es rw, s'.hist = s.hist ++ es ++ [.resp p s.port[p].cw rw])

/-- R52, R121, R174, R207: a transfer of a pin port addresses a register of its own bank, and a byte it writes differs from
the byte it just read at most in the pin's own bit; only `PD` writes without reading. -/
def Obligations.PinPortReachesOnlyItsBit : Prop :=
  ∀ (s s' : State) (q : Pin), Inv s → step s = .next s' →
    (∀ dev out r, Event.busWtr (pinPort q) dev out r ∈ s'.hist.drop s.hist.length →
      ∃ f, dev = s.devaddr ∧ out = [addrOf s.cfg f (bank q)]) ∧
    (∀ dev out r, Event.busW (pinPort q) dev out r ∈ s'.hist.drop s.hist.length →
      ∃ f x v, dev = s.devaddr ∧ s.port[pinPort q].tmp = some x ∧
        out = [addrOf s.cfg f (bank q), merge x (bitpos q) v])

/-- R169: an error answered at SUBMIT changes nothing but `HIST`; a bus error frees the gate, makes the port idle with no
byte latched, and changes no tag, no handle, no count and no address. -/
def Obligations.ErrorsChangeNothingElse : Prop :=
  ∀ (s s' : State) (p : Port) (cw : CmdWord) (st : Status) (v : Byte), Inv s → step s = .next s' →
    s'.hist.getLast? = some (.resp p cw (responseWord st v)) → s.hist.length < s'.hist.length → st ≠ .ok →
    s'.live = s.live ∧ s'.refcnt = s.refcnt ∧ s'.devaddr = s.devaddr ∧ s'.mode = s.mode ∧
    (st ≠ .busError → s' = withMoves (answered s p cw (statusCode st) 0) s.env.moves.tail) ∧
    (st = .busError → s'.gate.locked = false ∧ s'.port[p].busy = false ∧ s'.port[p].tmp = none ∧
      ∀ x, x ≠ p → s'.port[x] = s.port[x])

/-- R148, R191: in a state that meets the invariant, the `DROP` of the last handle leaves no handle, no reference, every
port idle and the gate free, and `NEW` is then accepted again. -/
def Obligations.LastDropEndsTheLifetime : Prop :=
  ∀ (s : State) (p : Port) (a : Byte) (ms : List Move), Inv s → s.refcnt = 1 → s.live[p] = true →
    s.port[p].busy = false →
    s.env.moves = .submit p (encode .drop) :: .submit 16 (encode (.new a)) :: ms → a.getLsbD 7 = false →
    ∃ t u, step s = .next t ∧ t.refcnt = 0 ∧ (∀ x : Port, t.live[x] = false ∧ t.port[x].busy = false) ∧
      t.gate.locked = false ∧ step t = .next u ∧ u.refcnt = 1 ∧ u.live[(16 : Port)] = true ∧
      u.devaddr = a.extractLsb' 0 7

/-- R29, R114: the three lifecycle states are told apart by the count and the device handle, and in a state with no command
in progress the gate is free. -/
def Obligations.LifeIsExhaustiveAndExclusive : Prop :=
  ∀ s : State, Inv s →
    (life s = .empty ↔ s.refcnt = 0) ∧ (life s = .device ↔ s.live[(16 : Port)] = true) ∧
    (life s = .split ↔ ∃ q : Pin, s.live[pinPort q] = true) ∧ (Quiescent s → s.gate.locked = false)

/-! ### Register map, merge, reference target -/

/-- R88: bit `i` of `merge(b, i, v)` is `v`, every other bit is that of `b`, and the three laws of the rule hold. -/
def Obligations.MergeReplacesOneBit : Prop :=
  (∀ (b : Byte) (i : BitVec 3) (v : Bool) (j : Nat), j < 8 →
    (merge b i v).getLsbD j = if j = i.toNat then v else b.getLsbD j) ∧
  (∀ (b : Byte) (i j : BitVec 3) (v w : Bool), i ≠ j → merge (merge b i v) j w = merge (merge b j w) i v) ∧
  (∀ (b : Byte) (i : BitVec 3) (v w : Bool), merge (merge b i v) i w = merge b i w) ∧
  (∀ (b : Byte) (i : BitVec 3), merge b i (b.getLsbD i.toNat) = b)

/-- R41, R43, R8 (a): under every well-formed configuration the register map tells pins and families apart: pins 0 to 7 and
no others are in bank `LOW`, and no two pairs of a pin and a family share an address and a bit. -/
def Obligations.RegisterMapIsInjective : Prop :=
  (∀ q : Pin, bank q = .low ↔ q.val < 8) ∧
  ∀ (c : Cfg) (p q : Pin) (f g : Family), c.wf = true →
    (regmap c p f = regmap c q g → p = q ∧ f = g) ∧
    (f ≠ g ∨ bank p ≠ bank q → addrOf c f (bank p) ≠ addrOf c g (bank q))

/-- R62, R63: RT answers a failing ordinal with its error and another device's address with 0x01, with no change; else it
stores a written byte; reads a data register as latch or level, bit by bit; returns and clears a status register; and
returns any other register. -/
def Obligations.TargetAnswersAsTheRule : Prop :=
  ∀ (c : Cfg) (t : Target) (n : Nat) (dev : DevAddr) (a v : Byte), c.wf = true → Memory.wf t.reg = true →
    (∀ e, t.fail.lookup n = some e →
      targetWrite t n dev a v = (.err e, t) ∧ targetRead c t n dev a = (.err e, t)) ∧
    (t.fail.lookup n = none → dev ≠ t.dev →
      targetWrite t n dev a v = (.err 0x01, t) ∧ targetRead c t n dev a = (.err 0x01, t)) ∧
    (t.fail.lookup n = none → dev = t.dev →
      (∃ u, targetWrite t n dev a v = (.ok, u) ∧ targetReg u a = v ∧
        (∀ x, x ≠ a → targetReg u x = targetReg t x) ∧ u = { t with reg := u.reg }) ∧
      (∀ k, a = addrOf c .data k → ∃ b, targetRead c t n dev a = (.ok b, t) ∧
        ∀ i, i < 8 → b.getLsbD i =
          if (targetReg t (addrOf c .dir k)).getLsbD i = c.dirOut then (targetReg t a).getLsbD i
          else t.level.getLsbD (8 * (bankNumber k).toNat + i)) ∧
      (∀ k, a = addrOf c .intStatus k → ∃ u, targetRead c t n dev a = (.ok (targetReg t a), u) ∧ targetReg u a = 0 ∧
        (∀ x, x ≠ a → targetReg u x = targetReg t x) ∧ u = { t with reg := u.reg }) ∧
      ((∀ k, a ≠ addrOf c .data k ∧ a ≠ addrOf c .intStatus k) →
        targetRead c t n dev a = (.ok (targetReg t a), t)))

/-- R64: `LEVEL(p, v)` sets the level of pin `p` and no other and keeps the rest of RT; `EVENT(p)` sets the pin's status bit
where its mask bit is armed, with every other bit, every other register and the rest of RT as they were, and does nothing
elsewhere. Each may stand between any two steps: as the next move in any state, it makes that change of the attached target
and, beside leaving the moves to come, no other change of the state. -/
def Obligations.TargetEventsAsTheRule : Prop :=
  (∀ (c : Cfg) (t : Target) (q : Pin) (v : Bool), Memory.wf t.reg = true →
    (∃ l, targetLevel t q v = { t with level := l } ∧
      ∀ j : Pin, l.getLsbD j.val = if j = q then v else t.level.getLsbD j.val) ∧
    ((targetReg t (addrOf c .intMask (bank q))).getLsbD (q.val % 8) = c.irqArmed →
      ∃ u, targetEvent c t q = u ∧ u = { t with reg := u.reg } ∧
        (∀ x, x ≠ addrOf c .intStatus (bank q) → targetReg u x = targetReg t x) ∧
        ∀ j, j < 8 → (targetReg u (addrOf c .intStatus (bank q))).getLsbD j =
          if j = q.val % 8 then true else (targetReg t (addrOf c .intStatus (bank q))).getLsbD j) ∧
    ((targetReg t (addrOf c .intMask (bank q))).getLsbD (q.val % 8) ≠ c.irqArmed → targetEvent c t q = t)) ∧
  ∀ (s : State) (t : Target) (q : Pin) (ms : List Move), s.env.target = some t →
    (∀ v, s.env.moves = .level q v :: ms → step s = .next (withMoves (withTarget s (some (targetLevel t q v))) ms)) ∧
    (s.env.moves = .event q :: ms → step s = .next (withMoves (withTarget s (some (targetEvent s.cfg t q))) ms))

/-- R57: two ports that wait with read-modify-writes of the same register at different bits, run one after the other
against RT at an address with no read side effect, leave both bits at the written values and every other bit as it was,
whichever runs first. -/
def Obligations.NoUpdateIsLost : Prop :=
  ∀ (s : State) (t : Target) (p q : Port) (a : Byte) (i j : BitVec 3) (v w : Bool) (ms : List Move), Inv s → p ≠ q →
    i ≠ j → s.port[p].busy = true → s.port[q].busy = true → s.gate.locked = false →
    currentOp s p = some (.rmw a i v) → currentOp s q = some (.rmw a j w) → s.env.target = some t →
    t.dev = s.devaddr → t.fail = [] → (∀ k, a ≠ addrOf s.cfg .data k ∧ a ≠ addrOf s.cfg .intStatus k) →
    ∃ u, Host.Core.run Sys2Proof.core 6
        (withMoves s ([.acq p, .busRd p none, .busWr p none, .acq q, .busRd q none, .busWr q none] ++ ms)) = .next u ∧
      ∀ n, n < 8 → (regOf u a).map (fun b => b.getLsbD n) =
        some (if n = i.toNat then v else if n = j.toNat then w else (targetReg t a).getLsbD n)

/-- R131: against RT, on every pin that is an output at the target and in its tag, `SET_HIGH` then `IS_HIGH` answers
`OK(0x01)`, and `SET_LOW` then `IS_LOW` answers `OK(0x01)`. -/
def Obligations.OutputRoundTrip : Prop :=
  ∀ (s : State) (t : Target) (q : Pin) (v : Bool) (ms : List Move), Inv s → s.live[pinPort q] = true →
    s.port[pinPort q].busy = false → s.gate.locked = false → (s.mode[q] = .output ∨ s.mode[q] = .outputOpenDrain) →
    s.env.target = some t → t.dev = s.devaddr → t.fail = [] →
    (targetReg t (addrOf s.cfg .dir (bank q))).getLsbD (q.val % 8) = s.cfg.dirOut →
    ∃ u, Host.Core.run Sys2Proof.core 7
        (withMoves s ([.submit (pinPort q) (encode (if v then .setHigh else .setLow)), .acq (pinPort q),
          .busRd (pinPort q) none, .busWr (pinPort q) none,
          .submit (pinPort q) (encode (if v then .isHigh else .isLow)), .acq (pinPort q),
          .busRd (pinPort q) none] ++ ms)) = .next u ∧
      u.hist.getLast? = some (.resp (pinPort q) (encode (if v then .isHigh else .isLow)) 0x001)

/-- R138, R50 (b): against RT, two `IRQ_STATUS` on one bank with no event between answer the flags and then 0x00, with two
reads and no write. -/
def Obligations.SecondStatusReadIsClear : Prop :=
  ∀ (s : State) (t : Target) (q r : Pin) (ms : List Move), Inv s → bank q = bank r → s.live[pinPort q] = true →
    s.live[pinPort r] = true → s.port[pinPort q].busy = false → s.port[pinPort r].busy = false →
    s.gate.locked = false → s.env.target = some t → t.dev = s.devaddr → t.fail = [] →
    ∃ u, Host.Core.run Sys2Proof.core 6
        (withMoves s ([.submit (pinPort q) (encode .irqStatus), .acq (pinPort q), .busRd (pinPort q) none,
          .submit (pinPort r) (encode .irqStatus), .acq (pinPort r), .busRd (pinPort r) none] ++ ms)) = .next u ∧
      u.hist = s.hist ++
        [.busWtr (pinPort q) s.devaddr [addrOf s.cfg .intStatus (bank q)]
            (.ok (targetReg t (addrOf s.cfg .intStatus (bank q)))),
         .resp (pinPort q) (encode .irqStatus) (0#4 ++ targetReg t (addrOf s.cfg .intStatus (bank q))),
         .busWtr (pinPort r) s.devaddr [addrOf s.cfg .intStatus (bank q)] (.ok 0x00),
         .resp (pinPort r) (encode .irqStatus) 0x000]

/-- R49, R12 and log 13: the environment's part. A transfer is answered by the move where it carries an answer; else by the
attached target; else by a free value. The answer is read from nothing else, and an answer of the move leaves the target as
it is (log 20). A change of the chip between two steps (R12 (c)) writes one register of the attached target; where none is
attached, such a change and RT's own events do nothing (log 21). The block keeps no copy of the chip, so its state is as it
was. -/
def Obligations.AnswersComeFromTheEnvironment : Prop :=
  (∀ (s : State) (a v : Byte),
    (∀ r, readReply s a (some r) = (r, s.env.target)) ∧ (∀ r, writeReply s a v (some r) = (r, s.env.target)) ∧
    (∀ t, s.env.target = some t →
      readReply s a none = ((targetRead s.cfg t (s.env.transfers + 1) s.devaddr a).1,
        some (targetRead s.cfg t (s.env.transfers + 1) s.devaddr a).2) ∧
      writeReply s a v none = ((targetWrite t (s.env.transfers + 1) s.devaddr a v).1,
        some (targetWrite t (s.env.transfers + 1) s.devaddr a v).2)) ∧
    (s.env.target = none →
      readReply s a none = (Config.readAnswer (s.env.transfers + 1), none) ∧
      writeReply s a v none = (Config.writeAnswer (s.env.transfers + 1), none))) ∧
  ∀ (s : State) (ms : List Move),
    (∀ t a v, s.env.target = some t → Memory.wf t.reg = true → s.env.moves = .poke a v :: ms →
      ∃ u, step s = .next (withMoves (withTarget s (some u)) ms) ∧ u = { t with reg := u.reg } ∧ targetReg u a = v ∧
        ∀ x, x ≠ a → targetReg u x = targetReg t x) ∧
    (s.env.target = none →
      ((∃ q v, s.env.moves = .level q v :: ms) ∨ (∃ q, s.env.moves = .event q :: ms) ∨
        ∃ a v, s.env.moves = .poke a v :: ms) →
      step s = .next (withMoves s ms))
end

