-- ==== Sys2Proof/Laws/State.lean ====
section
/-! SUPPORT. One lemma per field per update of the state, and what a read of a port, a tag or a handle gives after a
write of one. -/

namespace Sys2Proof.Machine

/-! ### `setPort` -/

@[simp] theorem setPort_live (s : State) (p : Port) (r : PortState) : (setPort s p r).live = s.live := rfl
@[simp] theorem setPort_refcnt (s : State) (p : Port) (r : PortState) : (setPort s p r).refcnt = s.refcnt := rfl
@[simp] theorem setPort_devaddr (s : State) (p : Port) (r : PortState) : (setPort s p r).devaddr = s.devaddr := rfl
@[simp] theorem setPort_gate (s : State) (p : Port) (r : PortState) : (setPort s p r).gate = s.gate := rfl
@[simp] theorem setPort_mode (s : State) (p : Port) (r : PortState) : (setPort s p r).mode = s.mode := rfl
@[simp] theorem setPort_port (s : State) (p : Port) (r : PortState) : (setPort s p r).port = s.port.set p r := rfl
@[simp] theorem setPort_hist (s : State) (p : Port) (r : PortState) : (setPort s p r).hist = s.hist := rfl
@[simp] theorem setPort_cfg (s : State) (p : Port) (r : PortState) : (setPort s p r).cfg = s.cfg := rfl
@[simp] theorem setPort_env (s : State) (p : Port) (r : PortState) : (setPort s p r).env = s.env := rfl

/-! ### `setLive` -/

@[simp] theorem setLive_live (s : State) (p : Port) (v : Bool) : (setLive s p v).live = s.live.set p v := rfl
@[simp] theorem setLive_refcnt (s : State) (p : Port) (v : Bool) : (setLive s p v).refcnt = s.refcnt := rfl
@[simp] theorem setLive_devaddr (s : State) (p : Port) (v : Bool) : (setLive s p v).devaddr = s.devaddr := rfl
@[simp] theorem setLive_gate (s : State) (p : Port) (v : Bool) : (setLive s p v).gate = s.gate := rfl
@[simp] theorem setLive_mode (s : State) (p : Port) (v : Bool) : (setLive s p v).mode = s.mode := rfl
@[simp] theorem setLive_port (s : State) (p : Port) (v : Bool) : (setLive s p v).port = s.port := rfl
@[simp] theorem setLive_hist (s : State) (p : Port) (v : Bool) : (setLive s p v).hist = s.hist := rfl
@[simp] theorem setLive_cfg (s : State) (p : Port) (v : Bool) : (setLive s p v).cfg = s.cfg := rfl
@[simp] theorem setLive_env (s : State) (p : Port) (v : Bool) : (setLive s p v).env = s.env := rfl

/-! ### `releaseGate` -/

@[simp] theorem releaseGate_live (s : State) : (releaseGate s).live = s.live := rfl
@[simp] theorem releaseGate_refcnt (s : State) : (releaseGate s).refcnt = s.refcnt := rfl
@[simp] theorem releaseGate_devaddr (s : State) : (releaseGate s).devaddr = s.devaddr := rfl
@[simp] theorem releaseGate_gate (s : State) : (releaseGate s).gate = { s.gate with locked := false } := rfl
@[simp] theorem releaseGate_mode (s : State) : (releaseGate s).mode = s.mode := rfl
@[simp] theorem releaseGate_port (s : State) : (releaseGate s).port = s.port := rfl
@[simp] theorem releaseGate_hist (s : State) : (releaseGate s).hist = s.hist := rfl
@[simp] theorem releaseGate_cfg (s : State) : (releaseGate s).cfg = s.cfg := rfl
@[simp] theorem releaseGate_env (s : State) : (releaseGate s).env = s.env := rfl

/-! ### `lockGate` -/

@[simp] theorem lockGate_live (s : State) (p : Port) : (lockGate s p).live = s.live := rfl
@[simp] theorem lockGate_refcnt (s : State) (p : Port) : (lockGate s p).refcnt = s.refcnt := rfl
@[simp] theorem lockGate_devaddr (s : State) (p : Port) : (lockGate s p).devaddr = s.devaddr := rfl
@[simp] theorem lockGate_gate (s : State) (p : Port) : (lockGate s p).gate = { locked := true, owner := p } := rfl
@[simp] theorem lockGate_mode (s : State) (p : Port) : (lockGate s p).mode = s.mode := rfl
@[simp] theorem lockGate_port (s : State) (p : Port) : (lockGate s p).port = s.port := rfl
@[simp] theorem lockGate_hist (s : State) (p : Port) : (lockGate s p).hist = s.hist := rfl
@[simp] theorem lockGate_cfg (s : State) (p : Port) : (lockGate s p).cfg = s.cfg := rfl
@[simp] theorem lockGate_env (s : State) (p : Port) : (lockGate s p).env = s.env := rfl

/-! ### `record` -/

@[simp] theorem record_live (s : State) (e : Event) : (record s e).live = s.live := rfl
@[simp] theorem record_refcnt (s : State) (e : Event) : (record s e).refcnt = s.refcnt := rfl
@[simp] theorem record_devaddr (s : State) (e : Event) : (record s e).devaddr = s.devaddr := rfl
@[simp] theorem record_gate (s : State) (e : Event) : (record s e).gate = s.gate := rfl
@[simp] theorem record_mode (s : State) (e : Event) : (record s e).mode = s.mode := rfl
@[simp] theorem record_port (s : State) (e : Event) : (record s e).port = s.port := rfl
@[simp] theorem record_hist (s : State) (e : Event) : (record s e).hist = s.hist ++ [e] := rfl
@[simp] theorem record_cfg (s : State) (e : Event) : (record s e).cfg = s.cfg := rfl
@[simp] theorem record_env (s : State) (e : Event) : (record s e).env = s.env := rfl

/-! ### `popMove` -/

@[simp] theorem popMove_live (s : State) : (popMove s).live = s.live := rfl
@[simp] theorem popMove_refcnt (s : State) : (popMove s).refcnt = s.refcnt := rfl
@[simp] theorem popMove_devaddr (s : State) : (popMove s).devaddr = s.devaddr := rfl
@[simp] theorem popMove_gate (s : State) : (popMove s).gate = s.gate := rfl
@[simp] theorem popMove_mode (s : State) : (popMove s).mode = s.mode := rfl
@[simp] theorem popMove_port (s : State) : (popMove s).port = s.port := rfl
@[simp] theorem popMove_hist (s : State) : (popMove s).hist = s.hist := rfl
@[simp] theorem popMove_cfg (s : State) : (popMove s).cfg = s.cfg := rfl
@[simp] theorem popMove_env (s : State) : (popMove s).env = { s.env with moves := s.env.moves.tail } := rfl

/-! ### `respond` -/

@[simp] theorem respond_live (s : State) (p : Port) (cw : CmdWord) (st : Status) (v : Byte) : (respond s p cw st v).live = s.live := rfl
@[simp] theorem respond_refcnt (s : State) (p : Port) (cw : CmdWord) (st : Status) (v : Byte) : (respond s p cw st v).refcnt = s.refcnt := rfl
@[simp] theorem respond_devaddr (s : State) (p : Port) (cw : CmdWord) (st : Status) (v : Byte) : (respond s p cw st v).devaddr = s.devaddr := rfl
@[simp] theorem respond_gate (s : State) (p : Port) (cw : CmdWord) (st : Status) (v : Byte) : (respond s p cw st v).gate = s.gate := rfl
@[simp] theorem respond_mode (s : State) (p : Port) (cw : CmdWord) (st : Status) (v : Byte) : (respond s p cw st v).mode = s.mode := rfl
@[simp] theorem respond_port (s : State) (p : Port) (cw : CmdWord) (st : Status) (v : Byte) : (respond s p cw st v).port = s.port := rfl
@[simp] theorem respond_hist (s : State) (p : Port) (cw : CmdWord) (st : Status) (v : Byte) : (respond s p cw st v).hist = s.hist ++ [.resp p cw (responseWord st v)] := rfl
@[simp] theorem respond_cfg (s : State) (p : Port) (cw : CmdWord) (st : Status) (v : Byte) : (respond s p cw st v).cfg = s.cfg := rfl
@[simp] theorem respond_env (s : State) (p : Port) (cw : CmdWord) (st : Status) (v : Byte) : (respond s p cw st v).env = s.env := rfl

/-! ### `makeIdle` -/

@[simp] theorem makeIdle_live (s : State) (p : Port) : (makeIdle s p).live = s.live := rfl
@[simp] theorem makeIdle_refcnt (s : State) (p : Port) : (makeIdle s p).refcnt = s.refcnt := rfl
@[simp] theorem makeIdle_devaddr (s : State) (p : Port) : (makeIdle s p).devaddr = s.devaddr := rfl
@[simp] theorem makeIdle_gate (s : State) (p : Port) : (makeIdle s p).gate = s.gate := rfl
@[simp] theorem makeIdle_mode (s : State) (p : Port) : (makeIdle s p).mode = s.mode := rfl
@[simp] theorem makeIdle_port (s : State) (p : Port) : (makeIdle s p).port = s.port.set p { portAt s p with busy := false, tmp := none } := rfl
@[simp] theorem makeIdle_hist (s : State) (p : Port) : (makeIdle s p).hist = s.hist := rfl
@[simp] theorem makeIdle_cfg (s : State) (p : Port) : (makeIdle s p).cfg = s.cfg := rfl
@[simp] theorem makeIdle_env (s : State) (p : Port) : (makeIdle s p).env = s.env := rfl

/-! ### `afterRead` -/

@[simp] theorem afterRead_live (s : State) (p : Port) (a : Byte) (r : Option ReadAnswer) : (afterRead s p a r).live = s.live := rfl
@[simp] theorem afterRead_refcnt (s : State) (p : Port) (a : Byte) (r : Option ReadAnswer) : (afterRead s p a r).refcnt = s.refcnt := rfl
@[simp] theorem afterRead_devaddr (s : State) (p : Port) (a : Byte) (r : Option ReadAnswer) : (afterRead s p a r).devaddr = s.devaddr := rfl
@[simp] theorem afterRead_gate (s : State) (p : Port) (a : Byte) (r : Option ReadAnswer) : (afterRead s p a r).gate = s.gate := rfl
@[simp] theorem afterRead_mode (s : State) (p : Port) (a : Byte) (r : Option ReadAnswer) : (afterRead s p a r).mode = s.mode := rfl
@[simp] theorem afterRead_port (s : State) (p : Port) (a : Byte) (r : Option ReadAnswer) : (afterRead s p a r).port = s.port := rfl
@[simp] theorem afterRead_hist (s : State) (p : Port) (a : Byte) (r : Option ReadAnswer) : (afterRead s p a r).hist = s.hist ++ [.busWtr p s.devaddr [a] (readReply s a r).1] := rfl
@[simp] theorem afterRead_cfg (s : State) (p : Port) (a : Byte) (r : Option ReadAnswer) : (afterRead s p a r).cfg = s.cfg := rfl
@[simp] theorem afterRead_env (s : State) (p : Port) (a : Byte) (r : Option ReadAnswer) : (afterRead s p a r).env = { s.env with target := (readReply s a r).2, transfers := s.env.transfers + 1 } := rfl

/-! ### `afterWrite` -/

@[simp] theorem afterWrite_live (s : State) (p : Port) (a v : Byte) (r : Option WriteAnswer) : (afterWrite s p a v r).live = s.live := rfl
@[simp] theorem afterWrite_refcnt (s : State) (p : Port) (a v : Byte) (r : Option WriteAnswer) : (afterWrite s p a v r).refcnt = s.refcnt := rfl
@[simp] theorem afterWrite_devaddr (s : State) (p : Port) (a v : Byte) (r : Option WriteAnswer) : (afterWrite s p a v r).devaddr = s.devaddr := rfl
@[simp] theorem afterWrite_gate (s : State) (p : Port) (a v : Byte) (r : Option WriteAnswer) : (afterWrite s p a v r).gate = s.gate := rfl
@[simp] theorem afterWrite_mode (s : State) (p : Port) (a v : Byte) (r : Option WriteAnswer) : (afterWrite s p a v r).mode = s.mode := rfl
@[simp] theorem afterWrite_port (s : State) (p : Port) (a v : Byte) (r : Option WriteAnswer) : (afterWrite s p a v r).port = s.port := rfl
@[simp] theorem afterWrite_hist (s : State) (p : Port) (a v : Byte) (r : Option WriteAnswer) : (afterWrite s p a v r).hist = s.hist ++ [.busW p s.devaddr [a, v] (writeReply s a v r).1] := rfl
@[simp] theorem afterWrite_cfg (s : State) (p : Port) (a v : Byte) (r : Option WriteAnswer) : (afterWrite s p a v r).cfg = s.cfg := rfl
@[simp] theorem afterWrite_env (s : State) (p : Port) (a v : Byte) (r : Option WriteAnswer) : (afterWrite s p a v r).env = { s.env with target := (writeReply s a v r).2, transfers := s.env.transfers + 1 } := rfl

/-! ### `latchCommand` -/

@[simp] theorem latchCommand_live (s : State) (p : Port) (cw : CmdWord) : (latchCommand s p cw).live = s.live := rfl
@[simp] theorem latchCommand_refcnt (s : State) (p : Port) (cw : CmdWord) : (latchCommand s p cw).refcnt = s.refcnt := rfl
@[simp] theorem latchCommand_devaddr (s : State) (p : Port) (cw : CmdWord) : (latchCommand s p cw).devaddr = s.devaddr := rfl
@[simp] theorem latchCommand_gate (s : State) (p : Port) (cw : CmdWord) : (latchCommand s p cw).gate = s.gate := rfl
@[simp] theorem latchCommand_mode (s : State) (p : Port) (cw : CmdWord) : (latchCommand s p cw).mode = s.mode := rfl
@[simp] theorem latchCommand_port (s : State) (p : Port) (cw : CmdWord) : (latchCommand s p cw).port = s.port.set p { portAt s p with busy := true, cw := cw, k := 0, ph := .wait } := rfl
@[simp] theorem latchCommand_hist (s : State) (p : Port) (cw : CmdWord) : (latchCommand s p cw).hist = s.hist := rfl
@[simp] theorem latchCommand_cfg (s : State) (p : Port) (cw : CmdWord) : (latchCommand s p cw).cfg = s.cfg := rfl
@[simp] theorem latchCommand_env (s : State) (p : Port) (cw : CmdWord) : (latchCommand s p cw).env = s.env := rfl

/-! ### `latchRead` -/

@[simp] theorem latchRead_live (s : State) (p : Port) (b : Byte) : (latchRead s p b).live = s.live := rfl
@[simp] theorem latchRead_refcnt (s : State) (p : Port) (b : Byte) : (latchRead s p b).refcnt = s.refcnt := rfl
@[simp] theorem latchRead_devaddr (s : State) (p : Port) (b : Byte) : (latchRead s p b).devaddr = s.devaddr := rfl
@[simp] theorem latchRead_gate (s : State) (p : Port) (b : Byte) : (latchRead s p b).gate = s.gate := rfl
@[simp] theorem latchRead_mode (s : State) (p : Port) (b : Byte) : (latchRead s p b).mode = s.mode := rfl
@[simp] theorem latchRead_port (s : State) (p : Port) (b : Byte) : (latchRead s p b).port = s.port.set p { portAt s p with tmp := some b, ph := .wr } := rfl
@[simp] theorem latchRead_hist (s : State) (p : Port) (b : Byte) : (latchRead s p b).hist = s.hist := rfl
@[simp] theorem latchRead_cfg (s : State) (p : Port) (b : Byte) : (latchRead s p b).cfg = s.cfg := rfl
@[simp] theorem latchRead_env (s : State) (p : Port) (b : Byte) : (latchRead s p b).env = s.env := rfl

/-! ### `changeTarget` -/

@[simp] theorem changeTarget_live (s : State) (f : Target → Target) : (changeTarget s f).live = s.live := rfl
@[simp] theorem changeTarget_refcnt (s : State) (f : Target → Target) : (changeTarget s f).refcnt = s.refcnt := rfl
@[simp] theorem changeTarget_devaddr (s : State) (f : Target → Target) : (changeTarget s f).devaddr = s.devaddr := rfl
@[simp] theorem changeTarget_gate (s : State) (f : Target → Target) : (changeTarget s f).gate = s.gate := rfl
@[simp] theorem changeTarget_mode (s : State) (f : Target → Target) : (changeTarget s f).mode = s.mode := rfl
@[simp] theorem changeTarget_port (s : State) (f : Target → Target) : (changeTarget s f).port = s.port := rfl
@[simp] theorem changeTarget_hist (s : State) (f : Target → Target) : (changeTarget s f).hist = s.hist := rfl
@[simp] theorem changeTarget_cfg (s : State) (f : Target → Target) : (changeTarget s f).cfg = s.cfg := rfl
@[simp] theorem changeTarget_env (s : State) (f : Target → Target) : (changeTarget s f).env = { s.env with target := s.env.target.map f } := rfl

/-! ### `dropEffect` -/

@[simp] theorem dropEffect_live (s : State) (p : Port) : (dropEffect s p).live = s.live.set p false := rfl
@[simp] theorem dropEffect_refcnt (s : State) (p : Port) : (dropEffect s p).refcnt = s.refcnt - 1 := rfl
@[simp] theorem dropEffect_devaddr (s : State) (p : Port) : (dropEffect s p).devaddr = s.devaddr := rfl
@[simp] theorem dropEffect_gate (s : State) (p : Port) : (dropEffect s p).gate = s.gate := rfl
@[simp] theorem dropEffect_mode (s : State) (p : Port) : (dropEffect s p).mode = s.mode := rfl
@[simp] theorem dropEffect_port (s : State) (p : Port) : (dropEffect s p).port = s.port := rfl
@[simp] theorem dropEffect_hist (s : State) (p : Port) : (dropEffect s p).hist = s.hist := rfl
@[simp] theorem dropEffect_cfg (s : State) (p : Port) : (dropEffect s p).cfg = s.cfg := rfl
@[simp] theorem dropEffect_env (s : State) (p : Port) : (dropEffect s p).env = s.env := rfl

/-! ### `newEffect` -/

@[simp] theorem newEffect_live (a : Byte) (s : State) (p : Port) : (newEffect a s p).live = s.live.set portPD true := rfl
@[simp] theorem newEffect_refcnt (a : Byte) (s : State) (p : Port) : (newEffect a s p).refcnt = 1 := rfl
@[simp] theorem newEffect_devaddr (a : Byte) (s : State) (p : Port) : (newEffect a s p).devaddr = a.extractLsb' 0 7 := rfl
@[simp] theorem newEffect_gate (a : Byte) (s : State) (p : Port) : (newEffect a s p).gate = s.gate := rfl
@[simp] theorem newEffect_mode (a : Byte) (s : State) (p : Port) : (newEffect a s p).mode = s.mode := rfl
@[simp] theorem newEffect_port (a : Byte) (s : State) (p : Port) : (newEffect a s p).port = s.port := rfl
@[simp] theorem newEffect_hist (a : Byte) (s : State) (p : Port) : (newEffect a s p).hist = s.hist := rfl
@[simp] theorem newEffect_cfg (a : Byte) (s : State) (p : Port) : (newEffect a s p).cfg = s.cfg := rfl
@[simp] theorem newEffect_env (a : Byte) (s : State) (p : Port) : (newEffect a s p).env = s.env := rfl

/-! ### `splitEffect` -/

@[simp] theorem splitEffect_live (s : State) (p : Port) : (splitEffect s p).live = (Vector.replicate 17 true).set portPD false := rfl
@[simp] theorem splitEffect_refcnt (s : State) (p : Port) : (splitEffect s p).refcnt = 16 := rfl
@[simp] theorem splitEffect_devaddr (s : State) (p : Port) : (splitEffect s p).devaddr = s.devaddr := rfl
@[simp] theorem splitEffect_gate (s : State) (p : Port) : (splitEffect s p).gate = s.gate := rfl
@[simp] theorem splitEffect_mode (s : State) (p : Port) : (splitEffect s p).mode = Vector.replicate 16 .unconfigured := rfl
@[simp] theorem splitEffect_port (s : State) (p : Port) : (splitEffect s p).port = s.port := rfl
@[simp] theorem splitEffect_hist (s : State) (p : Port) : (splitEffect s p).hist = s.hist := rfl
@[simp] theorem splitEffect_cfg (s : State) (p : Port) : (splitEffect s p).cfg = s.cfg := rfl
@[simp] theorem splitEffect_env (s : State) (p : Port) : (splitEffect s p).env = s.env := rfl

/-! ### `setMode` -/

@[simp] theorem setMode_live (s : State) (p : Port) (m : Mode) : (setMode s p m).live = s.live := by
  unfold setMode; split <;> rfl
@[simp] theorem setMode_refcnt (s : State) (p : Port) (m : Mode) : (setMode s p m).refcnt = s.refcnt := by
  unfold setMode; split <;> rfl
@[simp] theorem setMode_devaddr (s : State) (p : Port) (m : Mode) : (setMode s p m).devaddr = s.devaddr := by
  unfold setMode; split <;> rfl
@[simp] theorem setMode_gate (s : State) (p : Port) (m : Mode) : (setMode s p m).gate = s.gate := by
  unfold setMode; split <;> rfl
@[simp] theorem setMode_port (s : State) (p : Port) (m : Mode) : (setMode s p m).port = s.port := by
  unfold setMode; split <;> rfl
@[simp] theorem setMode_hist (s : State) (p : Port) (m : Mode) : (setMode s p m).hist = s.hist := by
  unfold setMode; split <;> rfl
@[simp] theorem setMode_cfg (s : State) (p : Port) (m : Mode) : (setMode s p m).cfg = s.cfg := by
  unfold setMode; split <;> rfl
@[simp] theorem setMode_env (s : State) (p : Port) (m : Mode) : (setMode s p m).env = s.env := by
  unfold setMode; split <;> rfl

/-! ### `raiseError` -/

@[simp] theorem raiseError_live (s : State) (p : Port) (cw : CmdWord) (k : ErrorKind) :
    (raiseError s p cw k).live = s.live := by
  cases k <;> rfl
@[simp] theorem raiseError_refcnt (s : State) (p : Port) (cw : CmdWord) (k : ErrorKind) :
    (raiseError s p cw k).refcnt = s.refcnt := by
  cases k <;> rfl
@[simp] theorem raiseError_devaddr (s : State) (p : Port) (cw : CmdWord) (k : ErrorKind) :
    (raiseError s p cw k).devaddr = s.devaddr := by
  cases k <;> rfl
@[simp] theorem raiseError_mode (s : State) (p : Port) (cw : CmdWord) (k : ErrorKind) :
    (raiseError s p cw k).mode = s.mode := by
  cases k <;> rfl
@[simp] theorem raiseError_cfg (s : State) (p : Port) (cw : CmdWord) (k : ErrorKind) :
    (raiseError s p cw k).cfg = s.cfg := by
  cases k <;> rfl
@[simp] theorem raiseError_env (s : State) (p : Port) (cw : CmdWord) (k : ErrorKind) :
    (raiseError s p cw k).env = s.env := by
  cases k <;> rfl

/-! ### Reads after writes -/

@[simp] theorem portAt_setPort_self (s : State) (p : Port) (r : PortState) : portAt (setPort s p r) p = r := by
  simp [portAt]

theorem portAt_setPort_ne (s : State) (p q : Port) (r : PortState) (h : q ≠ p) :
    portAt (setPort s p r) q = portAt s q := by
  have hpq : p.val ≠ q.val := fun e => h (Fin.ext e.symm)
  simp [portAt, hpq]

theorem portAt_congr (s t : State) (h : t.port = s.port) (p : Port) : portAt t p = portAt s p := by
  simp [portAt, h]

@[simp] theorem isLive_setLive_self (s : State) (p : Port) (v : Bool) : isLive (setLive s p v) p = v := by
  simp [isLive]

theorem isLive_setLive_ne (s : State) (p q : Port) (v : Bool) (h : q ≠ p) :
    isLive (setLive s p v) q = isLive s q := by
  have hpq : p.val ≠ q.val := fun e => h (Fin.ext e.symm)
  simp [isLive, hpq]

theorem isLive_congr (s t : State) (h : t.live = s.live) (p : Port) : isLive t p = isLive s p := by
  simp [isLive, h]

theorem pinOf_pinPort (q : Pin) : pinOf (pinPort q) = some q := by
  have h := q.isLt
  simp [pinOf, pinPort]

theorem pinOf_portPD : pinOf portPD = none := by decide

/-- A port is `PD` or the port of a pin (R12). -/
theorem port_cases (p : Port) : p = portPD ∨ ∃ q, p = pinPort q := by
  rcases Nat.lt_or_ge p.val 16 with h | h
  · exact .inr ⟨⟨p.val, h⟩, Fin.ext rfl⟩
  · exact .inl (Fin.ext (by have := p.isLt; simp [portPD]; omega))

theorem setMode_pinPort (s : State) (q : Pin) (m : Mode) :
    setMode s (pinPort q) m = { s with mode := s.mode.set q m } := by
  simp [setMode, pinOf_pinPort]

@[simp] theorem modeAt_setMode_self (s : State) (q : Pin) (m : Mode) : modeAt (setMode s (pinPort q) m) q = m := by
  simp [setMode_pinPort, modeAt]

theorem modeAt_setMode_ne (s : State) (q r : Pin) (m : Mode) (h : r ≠ q) :
    modeAt (setMode s (pinPort q) m) r = modeAt s r := by
  have hqr : q.val ≠ r.val := fun e => h (Fin.ext e.symm)
  simp [setMode_pinPort, modeAt, hqr]

theorem modeAt_congr (s t : State) (h : t.mode = s.mode) (q : Pin) : modeAt t q = modeAt s q := by
  simp [modeAt, h]

/-! ### Ports, handles and tags that an update does not write -/

@[simp] theorem isLive_setPort (s : State) (p : Port) (r : PortState) (x : Port) : isLive (setPort s p r) x = isLive s x := rfl
@[simp] theorem modeAt_setPort (s : State) (p : Port) (r : PortState) (x : Pin) : modeAt (setPort s p r) x = modeAt s x := rfl
@[simp] theorem portAt_setLive (s : State) (p : Port) (v : Bool) (x : Port) : portAt (setLive s p v) x = portAt s x := rfl
@[simp] theorem modeAt_setLive (s : State) (p : Port) (v : Bool) (x : Pin) : modeAt (setLive s p v) x = modeAt s x := rfl
@[simp] theorem portAt_releaseGate (s : State) (x : Port) : portAt (releaseGate s) x = portAt s x := rfl
@[simp] theorem isLive_releaseGate (s : State) (x : Port) : isLive (releaseGate s) x = isLive s x := rfl
@[simp] theorem modeAt_releaseGate (s : State) (x : Pin) : modeAt (releaseGate s) x = modeAt s x := rfl
@[simp] theorem portAt_lockGate (s : State) (p : Port) (x : Port) : portAt (lockGate s p) x = portAt s x := rfl
@[simp] theorem isLive_lockGate (s : State) (p : Port) (x : Port) : isLive (lockGate s p) x = isLive s x := rfl
@[simp] theorem modeAt_lockGate (s : State) (p : Port) (x : Pin) : modeAt (lockGate s p) x = modeAt s x := rfl
@[simp] theorem portAt_record (s : State) (e : Event) (x : Port) : portAt (record s e) x = portAt s x := rfl
@[simp] theorem isLive_record (s : State) (e : Event) (x : Port) : isLive (record s e) x = isLive s x := rfl
@[simp] theorem modeAt_record (s : State) (e : Event) (x : Pin) : modeAt (record s e) x = modeAt s x := rfl
@[simp] theorem portAt_popMove (s : State) (x : Port) : portAt (popMove s) x = portAt s x := rfl
@[simp] theorem isLive_popMove (s : State) (x : Port) : isLive (popMove s) x = isLive s x := rfl
@[simp] theorem modeAt_popMove (s : State) (x : Pin) : modeAt (popMove s) x = modeAt s x := rfl
@[simp] theorem portAt_respond (s : State) (p : Port) (cw : CmdWord) (st : Status) (v : Byte) (x : Port) : portAt (respond s p cw st v) x = portAt s x := rfl
@[simp] theorem isLive_respond (s : State) (p : Port) (cw : CmdWord) (st : Status) (v : Byte) (x : Port) : isLive (respond s p cw st v) x = isLive s x := rfl
@[simp] theorem modeAt_respond (s : State) (p : Port) (cw : CmdWord) (st : Status) (v : Byte) (x : Pin) : modeAt (respond s p cw st v) x = modeAt s x := rfl
@[simp] theorem isLive_makeIdle (s : State) (p : Port) (x : Port) : isLive (makeIdle s p) x = isLive s x := rfl
@[simp] theorem modeAt_makeIdle (s : State) (p : Port) (x : Pin) : modeAt (makeIdle s p) x = modeAt s x := rfl
@[simp] theorem portAt_afterRead (s : State) (p : Port) (a : Byte) (r : Option ReadAnswer) (x : Port) : portAt (afterRead s p a r) x = portAt s x := rfl
@[simp] theorem isLive_afterRead (s : State) (p : Port) (a : Byte) (r : Option ReadAnswer) (x : Port) : isLive (afterRead s p a r) x = isLive s x := rfl
@[simp] theorem modeAt_afterRead (s : State) (p : Port) (a : Byte) (r : Option ReadAnswer) (x : Pin) : modeAt (afterRead s p a r) x = modeAt s x := rfl
@[simp] theorem portAt_afterWrite (s : State) (p : Port) (a v : Byte) (r : Option WriteAnswer) (x : Port) : portAt (afterWrite s p a v r) x = portAt s x := rfl
@[simp] theorem isLive_afterWrite (s : State) (p : Port) (a v : Byte) (r : Option WriteAnswer) (x : Port) : isLive (afterWrite s p a v r) x = isLive s x := rfl
@[simp] theorem modeAt_afterWrite (s : State) (p : Port) (a v : Byte) (r : Option WriteAnswer) (x : Pin) : modeAt (afterWrite s p a v r) x = modeAt s x := rfl
@[simp] theorem isLive_latchCommand (s : State) (p : Port) (cw : CmdWord) (x : Port) : isLive (latchCommand s p cw) x = isLive s x := rfl
@[simp] theorem modeAt_latchCommand (s : State) (p : Port) (cw : CmdWord) (x : Pin) : modeAt (latchCommand s p cw) x = modeAt s x := rfl
@[simp] theorem isLive_latchRead (s : State) (p : Port) (b : Byte) (x : Port) : isLive (latchRead s p b) x = isLive s x := rfl
@[simp] theorem modeAt_latchRead (s : State) (p : Port) (b : Byte) (x : Pin) : modeAt (latchRead s p b) x = modeAt s x := rfl
@[simp] theorem portAt_changeTarget (s : State) (f : Target → Target) (x : Port) : portAt (changeTarget s f) x = portAt s x := rfl
@[simp] theorem isLive_changeTarget (s : State) (f : Target → Target) (x : Port) : isLive (changeTarget s f) x = isLive s x := rfl
@[simp] theorem modeAt_changeTarget (s : State) (f : Target → Target) (x : Pin) : modeAt (changeTarget s f) x = modeAt s x := rfl
@[simp] theorem portAt_dropEffect (s : State) (p : Port) (x : Port) : portAt (dropEffect s p) x = portAt s x := rfl
@[simp] theorem modeAt_dropEffect (s : State) (p : Port) (x : Pin) : modeAt (dropEffect s p) x = modeAt s x := rfl
@[simp] theorem portAt_newEffect (a : Byte) (s : State) (p : Port) (x : Port) : portAt (newEffect a s p) x = portAt s x := rfl
@[simp] theorem modeAt_newEffect (a : Byte) (s : State) (p : Port) (x : Pin) : modeAt (newEffect a s p) x = modeAt s x := rfl
@[simp] theorem portAt_splitEffect (s : State) (p : Port) (x : Port) : portAt (splitEffect s p) x = portAt s x := rfl
@[simp] theorem portAt_setMode (s : State) (p : Port) (m : Mode) (x : Port) : portAt (setMode s p m) x = portAt s x :=
  portAt_congr _ _ (setMode_port s p m) x
@[simp] theorem isLive_setMode (s : State) (p : Port) (m : Mode) (x : Port) : isLive (setMode s p m) x = isLive s x :=
  isLive_congr _ _ (setMode_live s p m) x
@[simp] theorem isLive_raiseError (s : State) (p : Port) (cw : CmdWord) (k : ErrorKind) (x : Port) :
    isLive (raiseError s p cw k) x = isLive s x := isLive_congr _ _ (raiseError_live s p cw k) x
@[simp] theorem modeAt_raiseError (s : State) (p : Port) (cw : CmdWord) (k : ErrorKind) (x : Pin) :
    modeAt (raiseError s p cw k) x = modeAt s x := modeAt_congr _ _ (raiseError_mode s p cw k) x

end Sys2Proof.Machine
end

