-- ==== Sys2Proof/Laws/Exec.lean ====
section
/-! SUPPORT. What a step can do, said once: every instruction is `commandStep` of its own description, and if that answers
a next state, then one of the cases of `CommandMove` holds. -/

namespace Sys2Proof.Machine

/-- The description of a command by which its meaning calls `commandStep`. -/
def commandOf : Instr → Command
  | .new a => ⟨.device, noDevice, newAddressCheck a, fun _ _ => [], newEffect a, noValue⟩
  | .split => ⟨.device, handleLive, noCheck, fun _ _ => [], splitEffect, noValue⟩
  | .drop => ⟨.any, handleLive, noCheck, fun _ _ => [], dropEffect, noValue⟩
  | .rdreg a => ⟨.device, handleLive, noCheck, fun _ _ => [.read a], noEffect, byteRead⟩
  | .wrreg a d => ⟨.device, handleLive, noCheck, fun _ _ => [.write a d], noEffect, noValue⟩
  | .modbit a b v => ⟨.device, handleLive, noCheck, fun _ _ => [.rmw a b v], noEffect, noValue⟩
  | .intoInput =>
    ⟨.pin, handleLive, noCheck, fun c => intoPlan c .input, fun t p => setMode t p .input, noValue⟩
  | .intoInputPu =>
    ⟨.pin, handleLive, noCheck, fun c => intoPlan c .inputPullUp, fun t p => setMode t p .inputPullUp, noValue⟩
  | .intoInputPd =>
    ⟨.pin, handleLive, noCheck, fun c => intoPlan c .inputPullDown, fun t p => setMode t p .inputPullDown, noValue⟩
  | .intoOutput =>
    ⟨.pin, handleLive, noCheck, fun c => intoPlan c .output, fun t p => setMode t p .output, noValue⟩
  | .intoOutputOd =>
    ⟨.pin, handleLive, noCheck, fun c => intoPlan c .outputOpenDrain, fun t p => setMode t p .outputOpenDrain, noValue⟩
  | .setLow => ⟨.pin, handleLive, outputModeCheck, fun c => rmwPlan c .data false, noEffect, noValue⟩
  | .setHigh => ⟨.pin, handleLive, outputModeCheck, fun c => rmwPlan c .data true, noEffect, noValue⟩
  | .isLow => ⟨.pin, handleLive, noCheck, fun c => readPlan c .data, noEffect, pinLow⟩
  | .isHigh => ⟨.pin, handleLive, noCheck, fun c => readPlan c .data, noEffect, pinHigh⟩
  | .irqDisarm => ⟨.pin, handleLive, noCheck, fun c => rmwPlan c .intMask (!c.irqArmed), noEffect, noValue⟩
  | .irqArm => ⟨.pin, handleLive, noCheck, fun c => rmwPlan c .intMask c.irqArmed, noEffect, noValue⟩
  | .irqStatus => ⟨.pin, handleLive, noCheck, fun c => readPlan c .intStatus, noEffect, byteRead⟩

/-- Every instruction is the shared step of its own description. -/
theorem exec_eq_commandStep (i : Instr) (s : State) : exec i s = commandStep (commandOf i) s := by
  cases i <;> rfl

/-- The plan a meaning uses is the plan of the table of R90. -/
@[simp] theorem commandOf_plan (i : Instr) (c : Cfg) (p : Port) : (commandOf i).plan c p = plan c p i := by
  cases i <;> rfl

/-- The port class a meaning uses is that of R71. -/
@[simp] theorem commandOf_cls (i : Instr) : (commandOf i).cls = portClass i := by
  cases i <;> rfl

/-- The mode check is made by no command but `SET_HIGH` and `SET_LOW`, the address check by none but `NEW` (R162, R163). -/
theorem commandOf_check (i : Instr) (s : State) (p : Port) :
    (commandOf i).check s p =
      match i with
      | .new a   => newAddressCheck a s p
      | .setLow  => outputModeCheck s p
      | .setHigh => outputModeCheck s p
      | _        => none := by
  cases i <;> rfl

/-- The effect of a command on completion: the lifecycle effects, the tag of an `INTO_*` command, none for the others. -/
theorem commandOf_effect (i : Instr) (s : State) (p : Port) :
    (commandOf i).effect s p =
      match i with
      | .new a => newEffect a s p
      | .split => splitEffect s p
      | .drop  => dropEffect s p
      | i      => match installs i with
                  | some m => setMode s p m
                  | none   => s := by
  cases i <;> rfl

/-- The plan is empty for the lifecycle commands alone, on a pin port and a well-formed mode sequence (R90, R8 (c)). -/
theorem plan_eq_nil_lifecycle (i : Instr) (c : Cfg) (p : Port) (hc : c.wf = true)
    (hp : classAdmits (portClass i) p = true) (h : plan c p i = []) :
    (∃ a, i = .new a) ∨ i = .split ∨ i = .drop := by
  have hseq : c.modeSeqWF = true := by
    simp only [Cfg.wf, Bool.and_eq_true] at hc
    exact hc.2
  simp only [Cfg.modeSeqWF, seqWF, Bool.and_eq_true, decide_eq_true_eq] at hseq
  rcases port_cases p with rfl | ⟨q, rfl⟩
  · cases i <;> simp_all [plan, portClass, classAdmits]
  · cases i <;> simp_all [plan, rmwPlan, readPlan, intoPlan, pinPlan, pinOf_pinPort, modeSeqOf]

/-- A plan has at most 3 micro-operations under a well-formed configuration (R17, R90). -/
theorem plan_length_le (i : Instr) (c : Cfg) (p : Port) (hc : c.wf = true) : (plan c p i).length ≤ 3 := by
  have hseq : c.modeSeqWF = true := by
    simp only [Cfg.wf, Bool.and_eq_true] at hc
    exact hc.2
  simp only [Cfg.modeSeqWF, seqWF, Bool.and_eq_true, decide_eq_true_eq] at hseq
  rcases port_cases p with rfl | ⟨q, rfl⟩
  · cases i <;> simp [plan, rmwPlan, readPlan, intoPlan, pinPlan, pinOf_portPD]
  · cases i <;> simp [plan, rmwPlan, readPlan, intoPlan, pinPlan, pinOf_pinPort, modeSeqOf] <;> omega

/-- Where ADVANCE answers a next state, it went on to the next micro-operation or the command completed (R104). -/
theorem advance_cases {c : Command} {p : Port} {v : Byte} {s s' : State} (h : advance c p v s = .next s') :
    (∃ k, nextIndex (portAt s p).k = some k ∧ (portAt s p).k.val + 1 < (c.plan s.cfg p).length ∧
        s' = setPort s p { portAt s p with k := k, ph := .wait, tmp := none }) ∨
      ((c.plan s.cfg p).length ≤ (portAt s p).k.val + 1 ∧
        s' = respond (makeIdle (c.effect s p) p) p (portAt s p).cw .ok v) := by
  unfold advance at h
  split at h
  · next hk =>
    split at h
    · next k hk' => cases h; exact .inl ⟨k, hk', hk, rfl⟩
    · cases h
  · next hk => cases h; exact .inr ⟨by omega, rfl⟩

/-- What the step of a command can do, if it answers a next state (R100 to R105). -/
inductive CommandMove (c : Command) (s s' : State) : Prop where
  /-- SUBMIT answered with an error (R100 cases 3 to 6). -/
  | rejected (p : Port) (cw : CmdWord) (k : ErrorKind) (ms : List Move) (hm : s.env.moves = .submit p cw :: ms)
      (idle : (portAt s p).busy = false)
      (why : k = .illegal ∨ (classAdmits c.cls p = true ∧ c.alive (popMove s) p = true ∧ c.check (popMove s) p = some k))
      (hs : s' = raiseError (popMove s) p cw k)
  /-- SUBMIT of a command with an empty plan (R100 case 7). -/
  | done (p : Port) (cw : CmdWord) (ms : List Move) (hm : s.env.moves = .submit p cw :: ms)
      (idle : (portAt s p).busy = false) (cls : classAdmits c.cls p = true) (alive : c.alive (popMove s) p = true)
      (check : c.check (popMove s) p = none) (nil : c.plan s.cfg p = [])
      (hs : s' = respond (c.effect (popMove s) p) p cw .ok 0)
  /-- SUBMIT of a command that is accepted (R100 case 7). -/
  | accepted (p : Port) (cw : CmdWord) (ms : List Move) (hm : s.env.moves = .submit p cw :: ms)
      (idle : (portAt s p).busy = false) (cls : classAdmits c.cls p = true) (alive : c.alive (popMove s) p = true)
      (check : c.check (popMove s) p = none) (ne : c.plan s.cfg p ≠ [])
      (hs : s' = latchCommand (popMove s) p cw)
  /-- ACQ with the gate held: the port waits (R101). -/
  | waited (p : Port) (ms : List Move) (hm : s.env.moves = .acq p :: ms) (busy : (portAt s p).busy = true)
      (ph : (portAt s p).ph = .wait) (held : s.gate.locked = true) (hs : s' = popMove s)
  /-- ACQ with the gate free (R101). -/
  | acquired (p : Port) (op : MicroOp) (ms : List Move) (hm : s.env.moves = .acq p :: ms)
      (busy : (portAt s p).busy = true) (ph : (portAt s p).ph = .wait) (free : s.gate.locked = false)
      (hop : (c.plan s.cfg p)[(portAt s p).k.val]? = some op)
      (hs : s' = setPort (lockGate (popMove s) p) p { portAt s p with ph := firstPhase op })
  /-- BUS_RD whose transfer failed (R102 (a)). -/
  | readFailed (p : Port) (ans : Option ReadAnswer) (op : MicroOp) (a : Byte) (e : ErrCode) (ms : List Move)
      (hm : s.env.moves = .busRd p ans :: ms) (may : mayTransfer s p .rd = true)
      (hop : (c.plan s.cfg p)[(portAt s p).k.val]? = some op)
      (reads : op = .read a ∨ ∃ i v, op = .rmw a i v) (reply : (readReply (popMove s) a ans).1 = .err e)
      (hs : s' = raiseError (afterRead (popMove s) p a ans) p (portAt s p).cw (.busError e))
  /-- BUS_RD of a read-modify-write (R102 (b)). -/
  | readLatched (p : Port) (ans : Option ReadAnswer) (a : Byte) (i : BitVec 3) (v : Bool) (b : Byte) (ms : List Move)
      (hm : s.env.moves = .busRd p ans :: ms) (may : mayTransfer s p .rd = true)
      (hop : (c.plan s.cfg p)[(portAt s p).k.val]? = some (.rmw a i v))
      (reply : (readReply (popMove s) a ans).1 = .ok b)
      (hs : s' = latchRead (afterRead (popMove s) p a ans) p b)
  /-- BUS_RD of a read (R102 (c)). -/
  | readDone (p : Port) (ans : Option ReadAnswer) (a : Byte) (b : Byte) (ms : List Move)
      (hm : s.env.moves = .busRd p ans :: ms) (may : mayTransfer s p .rd = true)
      (hop : (c.plan s.cfg p)[(portAt s p).k.val]? = some (.read a))
      (reply : (readReply (popMove s) a ans).1 = .ok b)
      (hs : advance c p (c.value p b) (releaseGate (afterRead (popMove s) p a ans)) = .next s')
  /-- BUS_WR whose transfer failed (R103 (a)). -/
  | writeFailed (p : Port) (ans : Option WriteAnswer) (op : MicroOp) (a w : Byte) (e : ErrCode) (ms : List Move)
      (hm : s.env.moves = .busWr p ans :: ms) (may : mayTransfer s p .wr = true)
      (hop : (c.plan s.cfg p)[(portAt s p).k.val]? = some op)
      (writes : op = .write a w ∨ ∃ i v b, op = .rmw a i v ∧ (portAt s p).tmp = some b ∧ w = merge b i v)
      (reply : (writeReply (popMove s) a w ans).1 = .err e)
      (hs : s' = raiseError (afterWrite (popMove s) p a w ans) p (portAt s p).cw (.busError e))
  /-- BUS_WR that ended its micro-operation (R103 (b)). -/
  | writeDone (p : Port) (ans : Option WriteAnswer) (op : MicroOp) (a w : Byte) (ms : List Move)
      (hm : s.env.moves = .busWr p ans :: ms) (may : mayTransfer s p .wr = true)
      (hop : (c.plan s.cfg p)[(portAt s p).k.val]? = some op)
      (writes : op = .write a w ∨ ∃ i v b, op = .rmw a i v ∧ (portAt s p).tmp = some b ∧ w = merge b i v)
      (reply : (writeReply (popMove s) a w ans).1 = .ok)
      (hs : advance c p 0 (releaseGate (afterWrite (popMove s) p a w ans)) = .next s')

theorem submit_cases {c : Command} {p : Port} {cw : CmdWord} {s s' : State} {ms : List Move}
    (hm : s.env.moves = .submit p cw :: ms) (h : submit c p cw (popMove s) = .next s') : CommandMove c s s' := by
  unfold submit at h
  split at h
  · cases h
  next hb =>
  have idle : (portAt s p).busy = false := by simpa using hb
  split at h
  · cases h; exact .rejected p cw .illegal ms hm idle (.inl rfl) rfl
  next hcls =>
  split at h
  · cases h; exact .rejected p cw .illegal ms hm idle (.inl rfl) rfl
  next halive =>
  have cls : classAdmits c.cls p = true := by simpa using hcls
  have alive : c.alive (popMove s) p = true := by simpa using halive
  split at h
  · next k hk => cases h; exact .rejected p cw k ms hm idle (.inr ⟨cls, alive, hk⟩) rfl
  next hchk =>
  split at h
  · next hn => cases h; exact .done p cw ms hm idle cls alive hchk hn rfl
  · next hn => cases h; exact .accepted p cw ms hm idle cls alive hchk hn rfl

theorem acquire_cases {c : Command} {p : Port} {s s' : State} {ms : List Move} (hm : s.env.moves = .acq p :: ms)
    (h : acquire c p (popMove s) = .next s') : CommandMove c s s' := by
  unfold acquire at h
  split at h
  · next hw =>
    obtain ⟨busy, ph⟩ := hw
    split at h
    · next hl => cases h; exact .waited p ms hm busy ph hl rfl
    · next hl =>
      split at h
      · next op hop => cases h; exact .acquired p op ms hm busy ph (by simpa using hl) hop rfl
      · cases h
  · cases h

theorem busRead_cases {c : Command} {p : Port} {ans : Option ReadAnswer} {s s' : State} {ms : List Move}
    (hm : s.env.moves = .busRd p ans :: ms) (h : busRead c p ans (popMove s) = .next s') : CommandMove c s s' := by
  unfold busRead at h
  split at h
  · next may =>
    split at h
    · next a hop =>
      split at h
      · next e he => cases h; exact .readFailed p ans _ a e ms hm may hop (.inl rfl) he rfl
      · next b hb => exact .readDone p ans a b ms hm may hop hb h
    · next a i v hop =>
      split at h
      · next e he => cases h; exact .readFailed p ans _ a e ms hm may hop (.inr ⟨i, v, rfl⟩) he rfl
      · next b hb => cases h; exact .readLatched p ans a i v b ms hm may hop hb rfl
    · cases h
    · cases h
  · cases h

theorem busWrite_cases {c : Command} {p : Port} {ans : Option WriteAnswer} {s s' : State} {ms : List Move}
    (hm : s.env.moves = .busWr p ans :: ms) (h : busWrite c p ans (popMove s) = .next s') : CommandMove c s s' := by
  unfold busWrite at h
  split at h
  · next may =>
    split at h
    · next a d hop =>
      unfold finishWrite at h
      split at h
      · next e he => cases h; exact .writeFailed p ans _ a d e ms hm may hop (.inl rfl) he rfl
      · next hk => exact .writeDone p ans _ a d ms hm may hop (.inl rfl) hk h
    · next a i v hop =>
      split at h
      · next b hb =>
        unfold finishWrite at h
        split at h
        · next e he =>
          cases h
          exact .writeFailed p ans _ a _ e ms hm may hop (.inr ⟨i, v, b, rfl, hb, rfl⟩) he rfl
        · next hk => exact .writeDone p ans _ a _ ms hm may hop (.inr ⟨i, v, b, rfl, hb, rfl⟩) hk h
      · cases h
    · cases h
    · cases h
  · cases h

/-- If the step of a command answers a next state, one of the cases of `CommandMove` holds. -/
theorem commandStep_cases {c : Command} {s s' : State} (h : commandStep c s = .next s') : CommandMove c s s' := by
  unfold commandStep at h
  split at h
  · next hm => exact submit_cases hm h
  · next hm => exact acquire_cases hm h
  · next hm => exact busRead_cases hm h
  · next hm => exact busWrite_cases hm h
  all_goals cases h

/-- If an instruction answers a next state, one of the cases of `CommandMove` holds. -/
theorem exec_cases {i : Instr} {s s' : State} (h : exec i s = .next s') : CommandMove (commandOf i) s s' := by
  rw [exec_eq_commandStep] at h
  exact commandStep_cases h

end Sys2Proof.Machine
end

