-- ==== Sys2Proof/Laws/Memory.lean ====
section
/-! SUPPORT. The laws of the register memory: reads after writes, and every operation keeps the canonical form. -/

namespace Sys2Proof.Machine

@[simp] theorem Memory.read_cons (a x : Nat) (v : Byte) (m : List Host.Cell) (h : ∀ c ∈ m, a < c.1) :
    Memory.read (Memory.cons a v m) x = if x = a then v else Memory.read m x := by
  have low : ∀ l : List Host.Cell, (∀ c ∈ l, a < c.1) → Memory.read l a = Memory.unlisted := by
    intro l
    induction l with
    | nil => intro _; rfl
    | cons c l ih =>
      intro hl
      have h1 := hl c (by simp)
      have h2 : c.1 ≠ a := by omega
      simp only [Memory.read, h2, if_false]
      exact ih fun d hd => hl d (by simp [hd])
  unfold Memory.cons
  split
  · next hv =>
    split
    · next hx => subst hx; rw [low m h, hv]
    · rfl
  · next hv =>
    by_cases hx : x = a
    · simp [Memory.read, hx]
    · have : ¬ a = x := fun e => hx e.symm
      simp [Memory.read, hx, this]

theorem Memory.wfFrom_mono (lo lo' : Nat) (h : lo' ≤ lo) :
    ∀ m, Memory.wfFrom lo m = true → Memory.wfFrom lo' m = true
  | [], _ => rfl
  | (k, w) :: m, hm => by
    simp only [Memory.wfFrom, Bool.and_eq_true, decide_eq_true_eq] at hm ⊢
    exact ⟨⟨⟨by omega, hm.1.1.2⟩, hm.1.2⟩, hm.2⟩

/-- Every address of a memory in canonical form from `lo` on is at least `lo`. -/
theorem Memory.wfFrom_lower : ∀ (m : List Host.Cell) (lo : Nat), Memory.wfFrom lo m = true → ∀ c ∈ m, lo ≤ c.1
  | [], _, _, c, hc => absurd hc (by simp)
  | (k, w) :: m, lo, hm, c, hc => by
    simp only [Memory.wfFrom, Bool.and_eq_true, decide_eq_true_eq] at hm
    rcases List.mem_cons.1 hc with rfl | hc
    · exact hm.1.1.1
    · have := Memory.wfFrom_lower m (k + 1) hm.2 c hc
      omega

theorem Memory.wfFrom_cons (lo a : Nat) (v : Byte) (m : List Host.Cell) (ha : a < 256) (hl : lo ≤ a)
    (hm : Memory.wfFrom (a + 1) m = true) : Memory.wfFrom lo (Memory.cons a v m) = true := by
  unfold Memory.cons
  split
  · exact Memory.wfFrom_mono _ _ (by omega) _ hm
  · next hv => simp [Memory.wfFrom, ha, hl, hv, hm]

theorem Memory.wfFrom_write (a : Nat) (v : Byte) (ha : a < 256) :
    ∀ (m : List Host.Cell) (lo : Nat), lo ≤ a → Memory.wfFrom lo m = true → Memory.wfFrom lo (Memory.write m a v) = true
  | [], lo, hl, _ => Memory.wfFrom_cons lo a v [] ha hl rfl
  | (k, w) :: m, lo, hl, hm => by
    have hm' := hm
    simp only [Memory.wfFrom, Bool.and_eq_true, decide_eq_true_eq] at hm'
    unfold Memory.write
    split
    · next hk =>
      refine Memory.wfFrom_cons lo a v _ ha hl ?_
      simp only [Memory.wfFrom, Bool.and_eq_true, decide_eq_true_eq]
      exact ⟨⟨⟨hk, hm'.1.1.2⟩, hm'.1.2⟩, hm'.2⟩
    · split
      · next hk => subst hk; exact Memory.wfFrom_cons lo a v m ha hl hm'.2
      · simp only [Memory.wfFrom, Bool.and_eq_true, decide_eq_true_eq]
        exact ⟨hm'.1, Memory.wfFrom_write a v ha m (k + 1) (by omega) hm'.2⟩

/-- A write keeps the canonical form. -/
theorem Memory.wf_write (m : List Host.Cell) (a : Nat) (v : Byte) (ha : a < 256) (hm : Memory.wf m = true) :
    Memory.wf (Memory.write m a v) = true :=
  Memory.wfFrom_write a v ha m 0 (Nat.zero_le _) hm

theorem Memory.wfFrom_read_write (a x : Nat) (v : Byte) :
    ∀ (m : List Host.Cell) (lo : Nat), Memory.wfFrom lo m = true →
      Memory.read (Memory.write m a v) x = if x = a then v else Memory.read m x
  | [], _, _ => Memory.read_cons a x v [] (by simp)
  | (k, w) :: m, lo, hm => by
    have hm' := hm
    simp only [Memory.wfFrom, Bool.and_eq_true, decide_eq_true_eq] at hm'
    have hlow := Memory.wfFrom_lower m (k + 1) hm'.2
    unfold Memory.write
    split
    · next hk =>
      refine Memory.read_cons a x v _ fun c hc => ?_
      rcases List.mem_cons.1 hc with rfl | hc
      · exact hk
      · have := hlow c hc
        omega
    · split
      · next hk =>
        subst hk
        rw [Memory.read_cons a x v m fun c hc => by have := hlow c hc; omega]
        by_cases hx : x = a
        · simp [hx]
        · have hx' : ¬ a = x := fun e => hx e.symm
          simp [hx, hx', Memory.read]
      · next hk hk' =>
        simp only [Memory.read]
        split
        · next hx =>
          subst hx
          have : ¬ k = a := fun e => hk' e.symm
          simp [this]
        · exact Memory.wfFrom_read_write a x v m (k + 1) hm'.2

/-- A read after a write gives the byte written at its address and what was there at every other. -/
theorem Memory.read_write (m : List Host.Cell) (a x : Nat) (v : Byte) (hm : Memory.wf m = true) :
    Memory.read (Memory.write m a v) x = if x = a then v else Memory.read m x :=
  Memory.wfFrom_read_write a x v m 0 hm

/-! ### The reference target -/

theorem targetSetReg_wf (t : Target) (a v : Byte) (h : Memory.wf t.reg = true) :
    Memory.wf (targetSetReg t a v).reg = true :=
  Memory.wf_write t.reg a.toNat v a.isLt h

@[simp] theorem targetReg_targetSetReg_self (t : Target) (a v : Byte) (h : Memory.wf t.reg = true) :
    targetReg (targetSetReg t a v) a = v := by
  simp [targetReg, targetSetReg, Memory.read_write _ _ _ _ h]

theorem targetReg_targetSetReg_ne (t : Target) (a x v : Byte) (h : Memory.wf t.reg = true) (hx : x ≠ a) :
    targetReg (targetSetReg t a v) x = targetReg t x := by
  have : x.toNat ≠ a.toNat := fun e => hx (BitVec.eq_of_toNat_eq e)
  simp [targetReg, targetSetReg, Memory.read_write _ _ _ _ h, this]

theorem targetReadReg_wf (c : Cfg) (t : Target) (a : Byte) (h : Memory.wf t.reg = true) :
    Memory.wf (targetReadReg c t a).2.reg = true := by
  unfold targetReadReg
  split
  · exact h
  · split
    · exact h
    · split
      · exact targetSetReg_wf t a 0 h
      · exact h

/-- A read answered by the reference target keeps its registers in canonical form. -/
theorem targetRead_wf (c : Cfg) (t : Target) (n : Nat) (dev : DevAddr) (a : Byte) (h : Memory.wf t.reg = true) :
    Memory.wf (targetRead c t n dev a).2.reg = true := by
  unfold targetRead
  split
  · exact h
  · split
    · exact targetReadReg_wf c t a h
    · exact h

/-- A write answered by the reference target keeps its registers in canonical form. -/
theorem targetWrite_wf (t : Target) (n : Nat) (dev : DevAddr) (a v : Byte) (h : Memory.wf t.reg = true) :
    Memory.wf (targetWrite t n dev a v).2.reg = true := by
  unfold targetWrite
  split
  · exact h
  · split
    · exact targetSetReg_wf t a v h
    · exact h

theorem targetLevel_wf (t : Target) (q : Pin) (v : Bool) (h : Memory.wf t.reg = true) :
    Memory.wf (targetLevel t q v).reg = true := h

theorem targetEvent_wf (c : Cfg) (t : Target) (q : Pin) (h : Memory.wf t.reg = true) :
    Memory.wf (targetEvent c t q).reg = true := by
  unfold targetEvent
  split
  · exact targetSetReg_wf t _ _ h
  · exact h

@[simp] theorem targetSetReg_dev (t : Target) (a v : Byte) : (targetSetReg t a v).dev = t.dev := rfl
@[simp] theorem targetSetReg_level (t : Target) (a v : Byte) : (targetSetReg t a v).level = t.level := rfl
@[simp] theorem targetSetReg_fail (t : Target) (a v : Byte) : (targetSetReg t a v).fail = t.fail := rfl
@[simp] theorem targetLevel_dev (t : Target) (q : Pin) (v : Bool) : (targetLevel t q v).dev = t.dev := rfl
@[simp] theorem targetLevel_reg (t : Target) (q : Pin) (v : Bool) : (targetLevel t q v).reg = t.reg := rfl
@[simp] theorem targetLevel_fail (t : Target) (q : Pin) (v : Bool) : (targetLevel t q v).fail = t.fail := rfl

/-- RT's `EVENT` changes registers only. -/
theorem targetEvent_fields (c : Cfg) (t : Target) (q : Pin) :
    (targetEvent c t q).dev = t.dev ∧ (targetEvent c t q).level = t.level ∧ (targetEvent c t q).fail = t.fail := by
  unfold targetEvent
  split <;> exact ⟨rfl, rfl, rfl⟩

/-- After reset no reference target is attached, so there is no memory that could be out of form. -/
theorem reset_target_wf (t : Target) (h : State.reset.env.target = some t) : Memory.wf t.reg = true := by
  simp [State.reset, Env.reset] at h

theorem readReply_wf (s : State) (a : Byte) (r : Option ReadAnswer)
    (h : ∀ t, s.env.target = some t → Memory.wf t.reg = true) :
    ∀ t, (readReply s a r).2 = some t → Memory.wf t.reg = true := by
  intro t ht
  unfold readReply at ht
  split at ht
  · exact h t ht
  · split at ht
    · next t' ht' => cases ht; exact targetRead_wf _ _ _ _ _ (h t' ht')
    · cases ht

theorem writeReply_wf (s : State) (a v : Byte) (r : Option WriteAnswer)
    (h : ∀ t, s.env.target = some t → Memory.wf t.reg = true) :
    ∀ t, (writeReply s a v r).2 = some t → Memory.wf t.reg = true := by
  intro t ht
  unfold writeReply at ht
  split at ht
  · exact h t ht
  · split at ht
    · next t' ht' => cases ht; exact targetWrite_wf _ _ _ _ _ (h t' ht')
    · cases ht

end Sys2Proof.Machine
end

