-- ==== Sys2Proof/Laws/Step.lean ====
section
/-! SUPPORT. What one step of the machine can do, said once. -/

namespace Sys2Proof.Machine

/-- What one step can do, if it answers a next state. -/
inductive StepMove (s s' : State) : Prop where
  /-- The step of a command. -/
  | command (i : Instr) (p : Port) (cw : CmdWord) (hf : fetch s = some (p, cw)) (hd : decode cw = .ok i)
      (move : CommandMove (commandOf i) s s')
  /-- SUBMIT of a word that is no command (R69, R70). -/
  | notACommand (p : Port) (cw : CmdWord) (ms : List Move) (e : DecodeError) (hm : s.env.moves = .submit p cw :: ms)
      (idle : (portAt s p).busy = false) (hd : decode cw = .error e) (hs : s' = raiseError (popMove s) p cw .illegal)
  /-- No move is left. -/
  | none (hm : s.env.moves = []) (hs : s' = s)
  /-- A change of the reference target. -/
  | target (f : Target → Target) (hs : s' = changeTarget (popMove s) f)
      (wf : ∀ t, Memory.wf t.reg = true → Memory.wf (f t).reg = true)

theorem fetch_submit {s : State} {p : Port} {cw : CmdWord} {ms : List Move} (hm : s.env.moves = .submit p cw :: ms) :
    fetch s = if (portAt s p).busy then Option.none else some (p, cw) := by
  simp [fetch, hm]

theorem fetch_acq {s : State} {p : Port} {ms : List Move} (hm : s.env.moves = .acq p :: ms) :
    fetch s = if (portAt s p).busy then some (p, (portAt s p).cw) else Option.none := by
  simp [fetch, hm]

theorem fetch_busRd {s : State} {p : Port} {r : Option ReadAnswer} {ms : List Move}
    (hm : s.env.moves = .busRd p r :: ms) :
    fetch s = if (portAt s p).busy then some (p, (portAt s p).cw) else Option.none := by
  simp [fetch, hm]

theorem fetch_busWr {s : State} {p : Port} {r : Option WriteAnswer} {ms : List Move}
    (hm : s.env.moves = .busWr p r :: ms) :
    fetch s = if (portAt s p).busy then some (p, (portAt s p).cw) else Option.none := by
  simp [fetch, hm]

/-- The port and word fetched are those of a submitted word on an idle port, or the latched ones of a busy port. -/
theorem fetch_cases {s : State} {p : Port} {cw : CmdWord} (h : fetch s = some (p, cw)) :
    (∃ ms, s.env.moves = .submit p cw :: ms ∧ (portAt s p).busy = false) ∨
      ((portAt s p).busy = true ∧ cw = (portAt s p).cw ∧
        ((∃ ms, s.env.moves = .acq p :: ms) ∨ (∃ r ms, s.env.moves = .busRd p r :: ms) ∨
          ∃ r ms, s.env.moves = .busWr p r :: ms)) := by
  unfold fetch at h
  split at h
  · next hm =>
    split at h
    · cases h
    · next hb => cases h; exact .inl ⟨_, hm, by simpa using hb⟩
  · next hm =>
    split at h
    · next hb => cases h; exact .inr ⟨hb, rfl, .inl ⟨_, hm⟩⟩
    · cases h
  · next hm =>
    split at h
    · next hb => cases h; exact .inr ⟨hb, rfl, .inr (.inl ⟨_, _, hm⟩)⟩
    · cases h
  · next hm =>
    split at h
    · next hb => cases h; exact .inr ⟨hb, rfl, .inr (.inr ⟨_, _, hm⟩)⟩
    · cases h
  all_goals cases h

/-- A step whose word decodes is the step of that instruction. -/
theorem step_of_fetch {s : State} {p : Port} {cw : CmdWord} {i : Instr} (hf : fetch s = some (p, cw))
    (hd : decode cw = .ok i) : step s = exec i s := by
  simp [step, hf, hd]

/-- If a step answers a next state, one of the cases of `StepMove` holds. -/
theorem step_cases {s s' : State} (h : step s = .next s') : StepMove s s' := by
  unfold step at h
  split at h
  · next p cw hf =>
    split at h
    · next i hd => exact .command i p cw hf hd (exec_cases h)
    · next e hd =>
      unfold undecodable at h
      split at h
      · cases h
      · next hb =>
        cases h
        rcases fetch_cases hf with ⟨ms, hm, hi⟩ | ⟨hbusy, -, -⟩
        · exact .notACommand p cw ms e hm hi hd rfl
        · exact absurd hbusy (by simpa using hb)
  · unfold environmentStep at h
    split at h
    · next hm => cases h; exact .none hm rfl
    · cases h
    · cases h
    · cases h
    · cases h
    · next q v _ _ => cases h; exact .target (fun t => targetLevel t q v) rfl fun t ht => targetLevel_wf t q v ht
    · next q _ _ => cases h; exact .target (fun t => targetEvent s.cfg t q) rfl fun t ht => targetEvent_wf s.cfg t q ht
    · next a v _ _ => cases h; exact .target (fun t => targetSetReg t a v) rfl fun t ht => targetSetReg_wf t a v ht

end Sys2Proof.Machine
end

