-- ==== Sys2Proof/Laws/Claims.lean ====
section
/-! SUPPORT. The step of each kind as an equation, in the terms the statements use: a next move at the head of the list, the
state written out field by field. -/

namespace Sys2Proof.Machine

open Sys2Proof.Claims

/-! ### The moves to come -/

theorem popMove_eq_withMoves {s : State} {m : Move} {ms : List Move} (h : s.env.moves = m :: ms) :
    popMove s = withMoves s ms := by
  simp [popMove, withMoves, h]

@[simp] theorem withMoves_live (s : State) (ms : List Move) : (withMoves s ms).live = s.live := rfl
@[simp] theorem withMoves_refcnt (s : State) (ms : List Move) : (withMoves s ms).refcnt = s.refcnt := rfl
@[simp] theorem withMoves_devaddr (s : State) (ms : List Move) : (withMoves s ms).devaddr = s.devaddr := rfl
@[simp] theorem withMoves_gate (s : State) (ms : List Move) : (withMoves s ms).gate = s.gate := rfl
@[simp] theorem withMoves_mode (s : State) (ms : List Move) : (withMoves s ms).mode = s.mode := rfl
@[simp] theorem withMoves_port (s : State) (ms : List Move) : (withMoves s ms).port = s.port := rfl
@[simp] theorem withMoves_hist (s : State) (ms : List Move) : (withMoves s ms).hist = s.hist := rfl
@[simp] theorem withMoves_cfg (s : State) (ms : List Move) : (withMoves s ms).cfg = s.cfg := rfl
@[simp] theorem withMoves_moves (s : State) (ms : List Move) : (withMoves s ms).env.moves = ms := rfl
@[simp] theorem withMoves_target (s : State) (ms : List Move) : (withMoves s ms).env.target = s.env.target := rfl
@[simp] theorem withMoves_transfers (s : State) (ms : List Move) :
    (withMoves s ms).env.transfers = s.env.transfers := rfl
@[simp] theorem portAt_withMoves (s : State) (ms : List Move) (p : Port) : portAt (withMoves s ms) p = portAt s p := rfl
@[simp] theorem isLive_withMoves (s : State) (ms : List Move) (p : Port) : isLive (withMoves s ms) p = isLive s p := rfl
@[simp] theorem modeAt_withMoves (s : State) (ms : List Move) (q : Pin) : modeAt (withMoves s ms) q = modeAt s q := rfl
@[simp] theorem readReply_withMoves (s : State) (ms : List Move) (a : Byte) (r : Option ReadAnswer) :
    readReply (withMoves s ms) a r = readReply s a r := rfl
@[simp] theorem writeReply_withMoves (s : State) (ms : List Move) (a v : Byte) (r : Option WriteAnswer) :
    writeReply (withMoves s ms) a v r = writeReply s a v r := rfl

/-! ### The attached target -/

@[simp] theorem withTarget_target (s : State) (t : Option Target) : (withTarget s t).env.target = t := rfl
@[simp] theorem withTarget_moves (s : State) (t : Option Target) : (withTarget s t).env.moves = s.env.moves := rfl
@[simp] theorem withTarget_transfers (s : State) (t : Option Target) :
    (withTarget s t).env.transfers = s.env.transfers := rfl
@[simp] theorem withTarget_cfg (s : State) (t : Option Target) : (withTarget s t).cfg = s.cfg := rfl

/-- A change of the target changes nothing of the block (R28, R172). -/
theorem withTarget_sameBlock (s : State) (t : Option Target) : SameBlock s (withTarget s t) :=
  ⟨rfl, rfl, rfl, rfl, rfl, rfl, rfl⟩

/-- A change of the target at the next move, in the statements' terms. -/
theorem changeTarget_popMove {s : State} {m : Move} {ms : List Move} (h : s.env.moves = m :: ms) (f : Target → Target) :
    changeTarget (popMove s) f = withMoves (withTarget s (s.env.target.map f)) ms := by
  simp [changeTarget, popMove, withMoves, withTarget, h]

/-! ### The events a step adds -/

@[simp] theorem isBus_busWtr (p : Port) (d : DevAddr) (o : List Byte) (r : ReadAnswer) : isBus (.busWtr p d o r) = true := rfl
@[simp] theorem isBus_busW (p : Port) (d : DevAddr) (o : List Byte) (r : WriteAnswer) : isBus (.busW p d o r) = true := rfl
@[simp] theorem isBus_resp (p : Port) (cw : CmdWord) (r : RespWord) : isBus (.resp p cw r) = false := rfl
@[simp] theorem busEvents_nil : busEvents [] = [] := rfl
@[simp] theorem busEvents_cons (e : Event) (es : List Event) :
    busEvents (e :: es) = if isBus e then e :: busEvents es else busEvents es := List.filter_cons ..
@[simp] theorem busEvents_append (xs ys : List Event) : busEvents (xs ++ ys) = busEvents xs ++ busEvents ys :=
  List.filter_append ..

/-! ### Which step a move is -/

theorem exec_of_submit {i : Instr} {s : State} {p : Port} {cw : CmdWord} {ms : List Move}
    (h : s.env.moves = .submit p cw :: ms) : exec i s = submit (commandOf i) p cw (withMoves s ms) := by
  rw [exec_eq_commandStep, commandStep]; simp [h, popMove_eq_withMoves h]

theorem exec_of_acq {i : Instr} {s : State} {p : Port} {ms : List Move} (h : s.env.moves = .acq p :: ms) :
    exec i s = acquire (commandOf i) p (withMoves s ms) := by
  rw [exec_eq_commandStep, commandStep]; simp [h, popMove_eq_withMoves h]

theorem exec_of_busRd {i : Instr} {s : State} {p : Port} {r : Option ReadAnswer} {ms : List Move}
    (h : s.env.moves = .busRd p r :: ms) : exec i s = busRead (commandOf i) p r (withMoves s ms) := by
  rw [exec_eq_commandStep, commandStep]; simp [h, popMove_eq_withMoves h]

theorem exec_of_busWr {i : Instr} {s : State} {p : Port} {r : Option WriteAnswer} {ms : List Move}
    (h : s.env.moves = .busWr p r :: ms) : exec i s = busWrite (commandOf i) p r (withMoves s ms) := by
  rw [exec_eq_commandStep, commandStep]; simp [h, popMove_eq_withMoves h]

theorem step_of_submit {s : State} {p : Port} {cw : CmdWord} {ms : List Move} {i : Instr}
    (hm : s.env.moves = .submit p cw :: ms) (hb : s.port[p].busy = false) (hd : decode cw = .ok i) :
    step s = submit (commandOf i) p cw (withMoves s ms) := by
  have hb' : (portAt s p).busy = false := hb
  rw [step_of_fetch (by rw [fetch_submit hm, hb']; rfl) hd, exec_of_submit hm]

/-- SUBMIT of a word that is no command is answered `Illegal` (R69, R70). -/
theorem step_of_undecodable {s : State} {p : Port} {cw : CmdWord} {ms : List Move} {e : DecodeError}
    (hm : s.env.moves = .submit p cw :: ms) (hb : s.port[p].busy = false) (hd : decode cw = .error e) :
    step s = .next (withMoves (answered s p cw 4 0) ms) := by
  have hb' : (portAt s p).busy = false := hb
  have hf : fetch s = some (p, cw) := by rw [fetch_submit hm, hb']; rfl
  simp [step, hf, hd, undecodable, hb', popMove_eq_withMoves hm]; rfl

/-- The port class of R71, as the statements write it. -/
theorem wrongPort_iff (p : Port) (i : Instr) : WrongPort p i ↔ classAdmits (portClass i) p = false := by
  cases i <;> simp [WrongPort, classAdmits, portClass, portPD]

theorem classAdmits_pinPort (q : Pin) : classAdmits .pin (pinPort q) = true := by revert q; decide

theorem currentOp_eq {s : State} {p : Port} {i : Instr} (hd : decode s.port[p].cw = .ok i) :
    currentOp s p = (plan s.cfg p i)[s.port[p].k.val]? := by
  have : (portAt s p).cw = s.port[p].cw := rfl
  unfold currentOp; rw [this, hd]; rfl

theorem currentOp_decode {s : State} {p : Port} {o : MicroOp} (h : currentOp s p = some o) :
    ∃ i, decode s.port[p].cw = .ok i ∧ (plan s.cfg p i)[s.port[p].k.val]? = some o := by
  unfold currentOp at h
  split at h
  · next i hi => exact ⟨i, hi, h⟩
  · cases h

theorem mayTransfer_iff {s : State} {p : Port} {ph : Phase} :
    mayTransfer s p ph = true ↔
      (portAt s p).busy = true ∧ (portAt s p).ph = ph ∧ s.gate.locked = true ∧ s.gate.owner = p := by
  simp [mayTransfer, and_assoc]

theorem mayTransfer_of_phase {s : State} {p : Port} {ph : Phase} {k : Nat} (h : AtPhase s p ph k) (ho : Owns s p) :
    mayTransfer s p ph = true :=
  mayTransfer_iff.2 ⟨h.1, h.2.1, ho.1, ho.2⟩

/-! ### The steps of a command as equations -/

/-- ACQ takes the free gate (R101). -/
theorem exec_acquires {i : Instr} {s : State} {p : Port} {ms : List Move} {op : MicroOp}
    (hm : s.env.moves = .acq p :: ms) (hb : (portAt s p).busy = true) (hp : (portAt s p).ph = .wait)
    (hg : s.gate.locked = false) (ho : (plan s.cfg p i)[(portAt s p).k.val]? = some op) :
    exec i s = .next (withMoves (granted s p (firstPhase op)) ms) := by
  rw [exec_of_acq hm]
  simp [acquire, hb, hp, hg, ho]
  simp [granted, withPort, withMoves, setPort, lockGate, portAt]
  congr 1
  rw [← hb]; rfl

/-- SUBMIT of a command that is accepted (R100 case 7). -/
theorem exec_accepts {i : Instr} {s : State} {p : Port} {ms : List Move} {cw : CmdWord}
    (hm : s.env.moves = .submit p cw :: ms) (hb : s.port[p].busy = false)
    (hcls : classAdmits (portClass i) p = true) (hl : s.live[p] = true) (hnew : ∀ a, i ≠ .new a)
    (hchk : (commandOf i).check (withMoves s ms) p = none) (hp : plan s.cfg p i ≠ []) :
    exec i s = .next (withMoves (accepted s p cw) ms) := by
  have hb' : (portAt s p).busy = false := hb
  have hl' : isLive s p = true := hl
  have hal : (commandOf i).alive (withMoves s ms) p = true := by
    cases i <;> simp_all [commandOf, handleLive]
  rw [exec_of_submit hm]
  simp [submit, hb', hcls, hal, hchk, hp]; rfl

/-- BUS_RD of a read-modify-write (R102 (a), (b)). -/
theorem exec_read_half {i : Instr} {s : State} {p : Port} {ms : List Move} {ans : Option ReadAnswer} {a : Byte}
    {j : BitVec 3} {v : Bool} {k : Nat} (hm : s.env.moves = .busRd p ans :: ms) (h : AtPhase s p .rd k) (ho : Owns s p)
    (hop : (plan s.cfg p i)[k]? = some (.rmw a j v)) :
    (∀ b t, readReply s a ans = (.ok b, t) → exec i s = .next (withMoves (latched (didRead s p a (.ok b) t) p b) ms)) ∧
      (∀ e t, readReply s a ans = (.err e, t) →
        exec i s = .next (withMoves (answered (ended (didRead s p a (.err e) t) p) p s.port[p].cw 1 e) ms)) := by
  have hk : (portAt s p).k.val = k := h.2.2
  have may : mayTransfer (withMoves s ms) p .rd = true := mayTransfer_of_phase (k := k) h ho
  constructor
  · intro b t hr
    rw [exec_of_busRd hm]
    simp [busRead, may, hk, hop, hr, latched, didRead, latchRead, afterRead]; rfl
  · intro e t hr
    rw [exec_of_busRd hm]
    simp [busRead, may, hk, hop, hr, raiseError, afterRead]; rfl

/-- BUS_RD of a command whose plan is one read (R102 (a), (c), R104). -/
theorem exec_read_ends {i : Instr} {s : State} {p : Port} {ms : List Move} {ans : Option ReadAnswer} {a : Byte}
    (hm : s.env.moves = .busRd p ans :: ms) (h : AtPhase s p .rd 0) (ho : Owns s p) (hop : plan s.cfg p i = [.read a])
    (he : ∀ t, (commandOf i).effect t p = t) :
    (∀ b t, readReply s a ans = (.ok b, t) →
      exec i s = .next (withMoves
        (answered (ended (didRead s p a (.ok b) t) p) p s.port[p].cw 0 ((commandOf i).value p b)) ms)) ∧
      (∀ e t, readReply s a ans = (.err e, t) →
        exec i s = .next (withMoves (answered (ended (didRead s p a (.err e) t) p) p s.port[p].cw 1 e) ms)) := by
  have hk : (portAt s p).k.val = 0 := h.2.2
  have may : mayTransfer (withMoves s ms) p .rd = true := mayTransfer_of_phase (k := 0) h ho
  constructor
  · intro b t hr
    rw [exec_of_busRd hm]
    simp [busRead, may, hk, hop, hr, advance, he, afterRead]; rfl
  · intro e t hr
    rw [exec_of_busRd hm]
    simp [busRead, may, hk, hop, hr, raiseError, afterRead]; rfl

/-- BUS_WR of a command whose plan is one write or one read-modify-write (R103, R104). -/
theorem exec_write_ends {i : Instr} {s : State} {p : Port} {ms : List Move} {ans : Option WriteAnswer} {a w : Byte}
    (hm : s.env.moves = .busWr p ans :: ms) (h : AtPhase s p .wr 0) (ho : Owns s p)
    (hop : plan s.cfg p i = [.write a w] ∨
      ∃ j v b, plan s.cfg p i = [.rmw a j v] ∧ s.port[p].tmp = some b ∧ w = merge b j v)
    (he : ∀ t, (commandOf i).effect t p = t) :
    (∀ t, writeReply s a w ans = (.ok, t) →
      exec i s = .next (withMoves (answered (ended (didWrite s p a w .ok t) p) p s.port[p].cw 0 0) ms)) ∧
      (∀ e t, writeReply s a w ans = (.err e, t) →
        exec i s = .next (withMoves (answered (ended (didWrite s p a w (.err e) t) p) p s.port[p].cw 1 e) ms)) := by
  have hk : (portAt s p).k.val = 0 := h.2.2
  have may : mayTransfer (withMoves s ms) p .wr = true := mayTransfer_of_phase (k := 0) h ho
  rcases hop with hop | ⟨j, v, b, hop, ht, rfl⟩
  · constructor
    · intro t hr
      rw [exec_of_busWr hm]
      simp [busWrite, finishWrite, may, hk, hop, hr, advance, he, afterWrite]; rfl
    · intro e t hr
      rw [exec_of_busWr hm]
      simp [busWrite, finishWrite, may, hk, hop, hr, raiseError, afterWrite]; rfl
  · have ht' : (portAt s p).tmp = some b := ht
    constructor
    · intro t hr
      rw [exec_of_busWr hm]
      simp [busWrite, finishWrite, may, hk, hop, ht', hr, advance, he, afterWrite]; rfl
    · intro e t hr
      rw [exec_of_busWr hm]
      simp [busWrite, finishWrite, may, hk, hop, ht', hr, raiseError, afterWrite]; rfl

/-- ADVANCE under a well-formed configuration answers a next state, the one the statements write out (R104). -/
theorem advance_advancedTo {i : Instr} {p : Port} {v : Byte} {s : State} {ms : List Move} (hc : s.cfg.wf = true)
    (hk : s.port[p].k.val < (plan s.cfg p i).length) :
    ∃ s', AdvancedTo i p v s s' ∧
      advance (commandOf i) p v (releaseGate (withMoves s ms)) = .next (withMoves s' ms) := by
  have hlen := plan_length_le i s.cfg p hc
  have hpl : plan s.cfg p i ≠ [] := by intro h; rw [h] at hk; simp at hk
  have e : portAt (releaseGate (withMoves s ms)) p = s.port[p] := rfl
  have ec : (releaseGate (withMoves s ms)).cfg = s.cfg := rfl
  unfold AdvancedTo advance
  rw [e, ec, commandOf_plan]
  by_cases h : s.port[p].k.val + 1 < (plan s.cfg p i).length
  · simp only [h, if_true]
    have hn : nextIndex s.port[p].k = some ⟨s.port[p].k.val + 1, by omega⟩ := by
      unfold nextIndex; rw [dif_pos]
    refine ⟨_, ⟨⟨s.port[p].k.val + 1, by omega⟩, rfl, rfl⟩, ?_⟩
    rw [hn]; rfl
  · simp only [h, if_false]
    rcases port_cases p with rfl | ⟨q, rfl⟩
    · cases i <;>
        first
        | exact absurd rfl hpl
        | exact ⟨_, rfl, rfl⟩
    · cases i <;>
        first
        | exact absurd rfl hpl
        | exact ⟨_, rfl, rfl⟩
        | (refine ⟨_, ⟨q, rfl, rfl⟩, ?_⟩; simp [commandOf, setMode_pinPort]; rfl)

end Sys2Proof.Machine
end

