-- ==== Sys2Proof/Laws/Decode.lean ====
section
/-! SUPPORT. The fields of a word made from fields, and the word of its own fields (spec/30_encoding.md R65, R68). -/

namespace Sys2Proof

@[simp] theorem fieldOp_wordOf (op : BitVec 5) (bit : BitVec 3) (a d : Byte) : fieldOp (wordOf op bit a d) = op := by
  apply BitVec.eq_of_getLsbD_eq
  intro i hi
  simp only [fieldOp, wordOf, BitVec.getLsbD_extractLsb']
  interval_cases i <;> simp

@[simp] theorem fieldBit_wordOf (op : BitVec 5) (bit : BitVec 3) (a d : Byte) : fieldBit (wordOf op bit a d) = bit := by
  apply BitVec.eq_of_getLsbD_eq
  intro i hi
  simp only [fieldBit, wordOf, BitVec.getLsbD_extractLsb']
  interval_cases i <;> simp

@[simp] theorem fieldA_wordOf (op : BitVec 5) (bit : BitVec 3) (a d : Byte) : fieldA (wordOf op bit a d) = a := by
  apply BitVec.eq_of_getLsbD_eq
  intro i hi
  simp only [fieldA, wordOf, BitVec.getLsbD_extractLsb']
  interval_cases i <;> simp

@[simp] theorem fieldD_wordOf (op : BitVec 5) (bit : BitVec 3) (a d : Byte) : fieldD (wordOf op bit a d) = d := by
  apply BitVec.eq_of_getLsbD_eq
  intro i hi
  simp only [fieldD, wordOf, BitVec.getLsbD_extractLsb']
  interval_cases i <;> simp

/-- The four fields make up the whole word (R65). -/
theorem wordOf_fields (cw : CmdWord) : wordOf (fieldOp cw) (fieldBit cw) (fieldA cw) (fieldD cw) = cw := by
  apply BitVec.eq_of_getLsbD_eq
  intro i hi
  simp only [fieldOp, fieldBit, fieldA, fieldD, wordOf, BitVec.getLsbD_or, BitVec.getLsbD_shiftLeft,
    BitVec.getLsbD_setWidth, BitVec.getLsbD_extractLsb']
  interval_cases i <;> simp

end Sys2Proof
end

