-- ==== Sys2Proof/Laws/Inv.lean ====
section
/-! SUPPORT. How the invariant of `Safety` passes through a change of one port, the gate or the handles. -/

namespace Sys2Proof.Machine

open Sys2Proof.Claims

/-- The current micro-operation of a port depends on the configuration and that port only. -/
theorem currentOp_congr {s s' : State} {p} (hc : s'.cfg = s.cfg) (hp : portAt s' p = portAt s p) : currentOp s' p = currentOp s p := by
  unfold currentOp; rw [hc, hp]

/-- A change of one port `p` and of the gate keeps the invariant, if `p` still fits it and the gate moves with `p`'s transaction. -/
theorem inv_frame {s s' : State} (p : Port) (h : Inv s) (hl : s'.live = s.live) (hr : s'.refcnt = s.refcnt) (hc : s'.cfg = s.cfg)
  (ht : ∀ t, s'.env.target = some t → Memory.wf t.reg = true)
  (hx : ∀ x, x ≠ p → portAt s' x = portAt s x)
  (h1 : (portAt s' p).busy = true → isLive s p = true ∧ phaseFits (portAt s' p).ph (currentOp s' p) (portAt s' p).tmp = true ∧
      ∀ i, decode (portAt s' p).cw = .ok i → classAdmits (portClass i) p = true)
  (h2 : (portAt s' p).busy = false → (portAt s' p).tmp = none)
  (hg : (s'.gate = s.gate ∧ (inTransaction s' p ↔ inTransaction s p)) ∨
        (s.gate.locked = false ∧ s'.gate = ⟨true, p⟩ ∧ inTransaction s' p) ∨
        (s.gate.owner = p ∧ s.gate.locked = true ∧ s'.gate.locked = false ∧ ¬ inTransaction s' p)) : Inv s' := by
  have il : ∀ x, isLive s' x = isLive s x := fun x => isLive_congr _ _ hl x
  have tr : ∀ x, x ≠ p → (inTransaction s' x ↔ inTransaction s x) := by
    intro x hxp; unfold inTransaction; rw [hx x hxp]
  constructor
  · rw [hc]; exact h.cfg_wf
  · simpa [il] using h.device_alone
  · have := h.refcnt_counts; unfold liveCount at *; rw [hl, hr]; exact this
  · intro x hb; rw [il]
    by_cases e : x = p
    · subst e; exact (h1 hb).1
    · rw [hx x e] at hb; exact h.busy_live x hb
  · intro hlk
    rcases hg with ⟨g, t⟩ | ⟨_, g, t⟩ | ⟨_, _, g, _⟩
    · rw [g] at hlk ⊢
      have := h.owner_busy hlk
      by_cases e : s.gate.owner = p
      · rw [e] at this ⊢; exact t.2 this
      · exact (tr _ e).2 this
    · rw [g]; exact t
    · rw [g] at hlk; cases hlk
  · intro x hin
    by_cases e : x = p
    · subst e
      rcases hg with ⟨g, t⟩ | ⟨_, g, t⟩ | ⟨_, _, g, t⟩
      · rw [g]; exact h.busy_owner _ (t.1 hin)
      · rw [g]; exact ⟨rfl, rfl⟩
      · exact absurd hin t
    · have := h.busy_owner x ((tr x e).1 hin)
      rcases hg with ⟨g, t⟩ | ⟨u, g, t⟩ | ⟨o, _, g, t⟩
      · rw [g]; exact this
      · rw [u] at this; cases this.1
      · exact absurd (this.2.symm.trans o) e
  · intro x hb
    by_cases e : x = p
    · subst e; exact (h1 hb).2.1
    · rw [currentOp_congr hc (hx x e), hx x e]; rw [hx x e] at hb; exact h.phase_fits x hb
  · intro x i hb hd
    by_cases e : x = p
    · subst e; exact (h1 hb).2.2 i hd
    · rw [hx x e] at hb hd; exact h.latch_class x i hb hd
  · intro x hb
    by_cases e : x = p
    · subst e; exact h2 hb
    · rw [hx x e] at hb ⊢; exact h.idle_no_tmp x hb
  · exact ht

/-- The end of a micro-operation keeps the invariant. -/
theorem inv_advance {s u s' : State} {p : Port} {i v} (h : Inv s) (hd : decode (portAt s p).cw = .ok i) (ho : s.gate.locked = true ∧ s.gate.owner = p)
  (hb : (portAt s p).busy = true)
  (hl : u.live = s.live) (hr : u.refcnt = s.refcnt) (hc : u.cfg = s.cfg) (hp : u.port = s.port) (hg : u.gate.locked = false)
  (ht : ∀ t, u.env.target = some t → Memory.wf t.reg = true) (hn : ¬ IsLifecycle i)
  (ha : advance (commandOf i) p v u = .next s') : Inv s' := by
  have pe : ∀ x, portAt u x = portAt s x := portAt_congr _ _ hp
  rcases advance_cases ha with ⟨k, hk, hlt, rfl⟩ | ⟨hlen, rfl⟩
  · refine inv_frame p h (by simpa using hl) (by simpa using hr) (by simpa using hc) (by simpa using ht) ?_ ?_ ?_ ?_
    · intro x hx; rw [portAt_setPort_ne _ _ _ _ hx, pe]
    · intro _
      refine ⟨h.busy_live p hb, ?_, ?_⟩
      · have hkv : k.val = (portAt s p).k.val + 1 := by
          rw [pe] at hk; unfold nextIndex at hk; split at hk <;> simp at hk; subst hk; rfl
        simp only [portAt_setPort_self]
        have : currentOp (setPort u p { portAt u p with k := k, ph := .wait, tmp := none }) p = (plan s.cfg p i)[k.val]? := by
          unfold currentOp; simp [pe, hd, hc]
        rw [this]
        rw [pe, hc, commandOf_plan] at hlt
        rw [List.getElem?_eq_getElem (by omega)]; rfl
      · intro j hj; simp [pe] at hj; exact h.latch_class p j hb hj
    · intro hf; simp [pe, hb] at hf
    · right; right
      refine ⟨ho.2, ho.1, by simpa using hg, ?_⟩
      simp [inTransaction]
  · have heff : ∃ w : State, (commandOf i).effect u p = w ∧ w.live = u.live ∧ w.refcnt = u.refcnt ∧ w.cfg = u.cfg ∧ w.port = u.port ∧ w.gate = u.gate ∧ w.env = u.env := by
      refine ⟨_, rfl, ?_⟩
      cases i <;> first | (exfalso; exact hn trivial) | exact ⟨rfl, rfl, rfl, rfl, rfl, rfl⟩ | (simp [commandOf])
    obtain ⟨w, hw, a1, a2, a3, a4, a5, a6⟩ := heff
    rw [hw]
    have pw : ∀ x, portAt w x = portAt s x := fun x => (portAt_congr _ _ a4 x).trans (pe x)
    refine inv_frame p h (by simp [a1, hl]) (by simp [a2, hr]) (by simp [a3, hc]) (by simpa [a6] using ht) ?_ ?_ ?_ ?_
    · intro x hx
      show portAt (setPort w p _) x = _
      rw [portAt_setPort_ne _ _ _ _ hx, pw]
    · intro hf
      have : (portAt (setPort w p { portAt w p with busy := false, tmp := none }) p).busy = true := hf
      simp at this
    · intro _
      show (portAt (setPort w p { portAt w p with busy := false, tmp := none }) p).tmp = none
      simp
    · right; right
      refine ⟨ho.2, ho.1, by simp [a5, hg], ?_⟩
      rintro ⟨hf, _⟩
      have : (portAt (setPort w p { portAt w p with busy := false, tmp := none }) p).busy = true := hf
      simp at this

/-- A change outside the handles, the ports, the gate and the configuration keeps the invariant. -/
theorem inv_same {s s' : State} (h : Inv s) (hl : s'.live = s.live) (hr : s'.refcnt = s.refcnt) (hc : s'.cfg = s.cfg)
  (ht : ∀ t, s'.env.target = some t → Memory.wf t.reg = true) (hp : s'.port = s.port) (hg : s'.gate = s.gate) : Inv s' := by
  have pe : ∀ x, portAt s' x = portAt s x := portAt_congr _ _ hp
  refine inv_frame 0 h hl hr hc ht (fun x _ => pe x) ?_ ?_ (.inl ⟨hg, by unfold inTransaction; rw [pe]⟩)
  · intro hb; rw [currentOp_congr hc (pe 0), pe] at *; exact ⟨h.busy_live _ hb, h.phase_fits _ hb, fun i => h.latch_class _ i hb⟩
  · rw [pe]; exact h.idle_no_tmp 0

/-- Ending the command of the port that owns the gate on a bus error keeps the invariant. -/
theorem inv_raise_busError {s u : State} {p : Port} {cw e} (h : Inv s) (ho : s.gate.locked = true ∧ s.gate.owner = p)
  (hl : u.live = s.live) (hr : u.refcnt = s.refcnt) (hc : u.cfg = s.cfg) (hp : u.port = s.port)
  (ht : ∀ t, u.env.target = some t → Memory.wf t.reg = true) : Inv (raiseError u p cw (.busError e)) := by
  have pe : ∀ x, portAt u x = portAt s x := portAt_congr _ _ hp
  have q : ∀ x, portAt (raiseError u p cw (.busError e)) x = portAt (setPort u p { portAt u p with busy := false, tmp := none }) x := fun _ => rfl
  refine inv_frame p h (by simp [hl]) (by simp [hr]) (by simp [hc]) (by simpa using ht) ?_ ?_ ?_ ?_
  · intro x hx; rw [q, portAt_setPort_ne _ _ _ _ hx, pe]
  · rw [q]; simp
  · rw [q]; simp
  · exact .inr (.inr ⟨ho.2, ho.1, rfl, by unfold inTransaction; rw [q]; simp⟩)

/-- A lifecycle command has no micro-operation. -/
theorem not_lifecycle_of_plan {i : Instr} {c : Cfg} {p : Port} {k : Nat} {o} (h : (plan c p i)[k]? = some o) : ¬ IsLifecycle i := by
  cases i <;> simp [IsLifecycle] <;> simp [plan] at h

/-- A port that waits for the gate holds no byte. -/
theorem phaseFits_wait {o t} (h : phaseFits .wait o t = true) : t = none := by
  cases o <;> cases t <;> simp [phaseFits] at h ⊢

/-- A port that reads holds no byte yet. -/
theorem phaseFits_rd {o t} (h : phaseFits .rd o t = true) : t = none := by
  cases o <;> cases t <;> simp [phaseFits] at h ⊢

/-- Making a dead handle live adds one. -/
theorem liveCount_set_true (v : Vector Bool 17) (p : Fin 17) (h : v[p] = false) : (v.set p true).toList.count true = v.toList.count true + 1 := by
  have := Vector.count_set (a := true) (xs := v) (i := p.val) (b := true) (h := p.isLt)
  have h' : v[p.val] = false := h
  simp [h'] at this
  rw [← Vector.count_toList, ← Vector.count_toList] at this
  exact this

/-- Killing a live handle takes one away. -/
theorem liveCount_set_false (v : Vector Bool 17) (p : Fin 17) (h : v[p] = true) : (v.set p false).toList.count true = v.toList.count true - 1 := by
  have := Vector.count_set (a := false) (xs := v) (i := p.val) (b := true) (h := p.isLt)
  have h' : v[p.val] = true := h
  simp [h'] at this
  rw [← Vector.count_toList, ← Vector.count_toList] at this
  exact this

/-- A live handle counts. -/
theorem liveCount_pos (v : Vector Bool 17) (p : Fin 17) (h : v[p] = true) : 0 < v.toList.count true := by
  rw [List.count_pos_iff]
  have : v[p.val] = true := h
  rw [← this]; simp

/-- After SPLIT the device handle is dead. -/
theorem splitLive_portPD : ((Vector.replicate 17 true).set portPD false)[portPD] = false := by decide

/-- After SPLIT sixteen handles are live. -/
theorem splitLive_count : (16 : BitVec 5).toNat = ((Vector.replicate 17 true).set portPD false).toList.count true := by decide

/-- The checks of SUBMIT never answer a bus error. -/
theorem check_ne_busError (i : Instr) (s : State) (p : Port) (e) : (commandOf i).check s p ≠ some (.busError e) := by
  rw [commandOf_check]
  cases i <;> simp [newAddressCheck, outputModeCheck]
  all_goals (rcases port_cases p with rfl | ⟨q, rfl⟩ <;> simp [pinOf_portPD, pinOf_pinPort])

/-- An accepted lifecycle command keeps the invariant. -/
theorem inv_lifecycle {s : State} {i : Instr} {p : Port} {cw} (h : Inv s) (hi : IsLifecycle i) (idle : (portAt s p).busy = false)
  (cls : classAdmits (portClass i) p = true) (al : (commandOf i).alive s p = true) : Inv (respond ((commandOf i).effect s p) p cw .ok 0) := by
  have hrc := h.refcnt_counts
  unfold liveCount at hrc
  cases i <;> simp [IsLifecycle] at hi
  · -- new
    rename_i a
    have hp : p = portPD := by simpa [classAdmits, portClass] using cls
    subst hp
    have h0 : s.refcnt = 0 := by simpa [commandOf, noDevice] using al
    have hall : ∀ x : Port, isLive s x = false := by
      intro x
      by_contra hx
      have := liveCount_pos s.live x (by simpa [isLive] using hx)
      have z : s.refcnt.toNat = 0 := by rw [h0]; rfl
      omega
    have nb : ∀ x, (portAt s x).busy = false := by
      intro x; by_contra hb
      have := h.busy_live x (by simpa using hb); rw [hall] at this; cases this
    have hg : s.gate.locked = false := by
      by_contra hg
      have := (h.owner_busy (by simpa using hg)).1; rw [nb] at this; cases this
    show Inv (respond (newEffect a s portPD) portPD cw .ok 0)
    have il : ∀ x, x ≠ portPD → isLive (respond (newEffect a s portPD) portPD cw .ok 0) x = false := by
      intro x hx
      show isLive (setLive s portPD true) x = false
      rw [isLive_setLive_ne _ _ _ _ hx, hall]
    constructor
    · exact h.cfg_wf
    · intro _ q; apply il; revert q; decide
    · show (1 : BitVec 5).toNat = (s.live.set portPD true).toList.count true
      rw [liveCount_set_true _ _ (hall portPD)]
      rw [h0] at hrc; simp at hrc ⊢; omega
    · intro x hb; simp [nb] at hb
    · intro hl; simp [hg] at hl
    · intro x hin; have := hin.1; simp [nb] at this
    · intro x hb; simp [nb] at hb
    · intro x _ hb; simp [nb] at hb
    · intro x hb; exact h.idle_no_tmp x (nb x)
    · exact h.target_wf
  · have hp : p = portPD := by simpa [classAdmits, portClass] using cls
    subst hp
    have hl : isLive s portPD = true := by simpa [commandOf, handleLive] using al
    have nb : ∀ x, (portAt s x).busy = false := by
      intro x; by_contra hb
      have hb' := h.busy_live x (by simpa using hb)
      rcases port_cases x with rfl | ⟨q, rfl⟩
      · exact hb idle
      · have := h.device_alone hl q; rw [this] at hb'; cases hb'
    have hg : s.gate.locked = false := by
      by_contra hg
      have := (h.owner_busy (by simpa using hg)).1; rw [nb] at this; cases this
    show Inv (respond (splitEffect s portPD) portPD cw .ok 0)
    constructor
    · exact h.cfg_wf
    · intro hh; 
      have : isLive (respond (splitEffect s portPD) portPD cw .ok 0) portPD = false := by
        show ((Vector.replicate 17 true).set portPD false)[portPD] = false; exact splitLive_portPD
      rw [this] at hh; cases hh
    · show (16 : BitVec 5).toNat = ((Vector.replicate 17 true).set portPD false).toList.count true; exact splitLive_count
    · intro x hb; simp [nb] at hb
    · intro hl; simp [hg] at hl
    · intro x hin; have := hin.1; simp [nb] at this
    · intro x hb; simp [nb] at hb
    · intro x _ hb; simp [nb] at hb
    · intro x hb; exact h.idle_no_tmp x (nb x)
    · exact h.target_wf
  · have hl : isLive s p = true := by simpa [commandOf, handleLive] using al
    show Inv (respond (dropEffect s p) p cw .ok 0)
    have il : ∀ x, x ≠ p → isLive (respond (dropEffect s p) p cw .ok 0) x = isLive s x := by
      intro x hx
      exact isLive_setLive_ne _ _ _ _ hx
    have ip : isLive (respond (dropEffect s p) p cw .ok 0) p = false := isLive_setLive_self _ _ _
    have tr : ∀ x, inTransaction (respond (dropEffect s p) p cw .ok 0) x ↔ inTransaction s x := fun x => Iff.rfl
    constructor
    · exact h.cfg_wf
    · intro hh q
      by_cases e : pinPort q = p
      · rw [e]; exact ip
      · rw [il _ e]
        by_cases e2 : portPD = p
        · rw [e2, ip] at hh; cases hh
        · rw [il _ e2] at hh; exact h.device_alone hh q
    · show (s.refcnt - 1).toNat = (s.live.set p false).toList.count true
      have hpos := liveCount_pos s.live p hl
      rw [liveCount_set_false _ _ hl, ← hrc]
      have : s.refcnt.toNat < 32 := s.refcnt.isLt
      rw [BitVec.toNat_sub]; simp; omega
    · intro x hb
      by_cases e : x = p
      · subst e; exact absurd (show (portAt s x).busy = true from hb) (by rw [idle]; simp)
      · rw [il x e]; exact h.busy_live x hb
    · exact h.owner_busy
    · exact h.busy_owner
    · exact h.phase_fits
    · exact h.latch_class
    · exact h.idle_no_tmp
    · exact h.target_wf

end Sys2Proof.Machine
end

