-- ==== Sys2Proof/Laws/PerInstr.lean ====
section
/-! SUPPORT. Statements made for every instruction, one lemma per constructor. -/

namespace Sys2Proof.Laws.EncodeFits

/-- The word of an instruction has its opcode (spec/30_encoding.md R68) and zero in every must-be-zero field of its format
(R66, R70). -/
def Statement (i : Instr) : Prop := fieldOp (encode i) = opcodeOf i ∧ mustBeZeroHolds (formatOf i) (encode i) = true

/-- The statement of every instruction at once. -/
theorem statement_of (i : Instr) : Statement i := by
  cases i <;> simp [Statement, encode, opcodeOf, formatOf, mustBeZeroHolds]
  split <;> decide

theorem new (a : Byte) : Statement (.new a) := statement_of _

theorem split : Statement .split := statement_of _

theorem drop : Statement .drop := statement_of _

theorem rdreg (a : Byte) : Statement (.rdreg a) := statement_of _

theorem wrreg (a : Byte) (d : Byte) : Statement (.wrreg a d) := statement_of _

theorem modbit (a : Byte) (b : BitVec 3) (v : Bool) : Statement (.modbit a b v) := statement_of _

theorem intoInput : Statement .intoInput := statement_of _

theorem intoInputPu : Statement .intoInputPu := statement_of _

theorem intoInputPd : Statement .intoInputPd := statement_of _

theorem intoOutput : Statement .intoOutput := statement_of _

theorem intoOutputOd : Statement .intoOutputOd := statement_of _

theorem setLow : Statement .setLow := statement_of _

theorem setHigh : Statement .setHigh := statement_of _

theorem isLow : Statement .isLow := statement_of _

theorem isHigh : Statement .isHigh := statement_of _

theorem irqDisarm : Statement .irqDisarm := statement_of _

theorem irqArm : Statement .irqArm := statement_of _

theorem irqStatus : Statement .irqStatus := statement_of _

end Sys2Proof.Laws.EncodeFits
end

