-- ==== Sys2Proof/Tests/Slice0.lean ====
section
/-! SUPPORT. The model's own tests: expected values come from the vectors of spec/95_test_vectors.md or by hand from a
rule; and, for every statement that has hypotheses, a state and operands that meet them. -/

namespace Sys2Proof.Tests

open Sys2Proof Sys2Proof.Machine Sys2Proof.Claims

/-! ### Small states -/

/-- The gate, free. -/
def free : Gate := { locked := false, owner := 0 }

/-- The gate, held by a port. -/
def held (p : Port) : Gate := { locked := true, owner := p }

/-- A busy port's record. -/
def busyAt (cw : CmdWord) (k : Fin 3) (ph : Phase) (tmp : Option Byte) : PortState := ⟨true, cw, k, ph, tmp⟩

/-- An idle port's record. -/
def idle : PortState := PortState.reset

/-- The reference target of the vectors, at device address 0x3F (95_test_vectors.md, Part 3). -/
def target (reg : List Host.Cell) (level : BitVec 16) (fail : List (Nat × ErrCode)) : Target := ⟨0x3F, reg, level, fail⟩

/-- The target with every register 0x00. -/
def blank : Target := target [] 0 []

/-- An environment that makes the given moves against the given target. -/
def envOf (ms : List Move) (t : Option Target) : Env := ⟨ms, t, 0⟩

/-- The reset state under the reference configuration. -/
def atReset (e : Env) : State := { State.reset with cfg := refCfg, env := e }

/-- The state `DEVICE` at address 0x3F, with the record of `PD`. -/
def atDevice (r : PortState) (g : Gate) (e : Env) : State :=
  { atReset e with
    live := (Vector.replicate 17 false).set 16 true, refcnt := 1, devaddr := 0x3F, gate := g
    port := (Vector.replicate 17 PortState.reset).set 16 r }

/-- The state `SPLIT` at address 0x3F, every pin with the tag `m`, with the record of one pin port. -/
def atPins (m : Mode) (p : Port) (r : PortState) (g : Gate) (e : Env) : State :=
  { atReset e with
    live := (Vector.replicate 17 true).set 16 false, refcnt := 16, devaddr := 0x3F, gate := g
    mode := Vector.replicate 16 m, port := (Vector.replicate 17 PortState.reset).set p r }

/-- The state `SPLIT` with only pin 2's handle left. -/
def atLastPin (e : Env) : State :=
  { atPins .unconfigured 2 idle free e with live := (Vector.replicate 17 false).set 2 true, refcnt := 1 }

/-- The next state of an outcome; a stop gives a state that no test expects. -/
def outcome (r : Result) : State :=
  match r with
  | .next s    => s
  | .fault _   => { atReset (envOf [] none) with refcnt := 31 }
  | .refused _ => { atReset (envOf [] none) with refcnt := 31 }

/-- The state after `n` steps. -/
def runOf (n : Nat) (s : State) : State := outcome (Host.Core.run Sys2Proof.core n s)

/-- The last event of the history after one step. -/
def lastEvent (s : State) : Option Event := (outcome (step s)).hist.getLast?

/-- A register of the target after one step. -/
def regAfter (s : State) (a : Byte) : Option Byte := regOf (outcome (step s)) a

/-- A run's states are reachable. -/
theorem reachable_run (n : Nat) : ∀ (s t : State), Reachable s → Host.Core.run Sys2Proof.core n s = .next t →
    Reachable t := by
  induction n with
  | zero => intro s t h hr; cases hr; exact h
  | succ n ih =>
    intro s t h hr
    simp only [Host.Core.run] at hr
    split at hr
    · next s' hs => exact ih s' t (.step s s' h hs) hr
    · cases hr
    · cases hr

/-- The invariant, as a check that runs. -/
def invCheck (s : State) : Bool :=
  s.cfg.wf && decide (isLive s portPD = true → ∀ q : Pin, isLive s (pinPort q) = false) &&
  decide (s.refcnt.toNat = liveCount s) &&
  decide (∀ p, (portAt s p).busy = true → isLive s p = true) &&
  decide (s.gate.locked = true → (portAt s s.gate.owner).busy = true ∧ (portAt s s.gate.owner).ph ≠ .wait) &&
  decide (∀ p, (portAt s p).busy = true ∧ (portAt s p).ph ≠ .wait → s.gate.locked = true ∧ s.gate.owner = p) &&
  decide (∀ p, (portAt s p).busy = true → phaseFits (portAt s p).ph (currentOp s p) (portAt s p).tmp = true) &&
  decide (∀ p, (portAt s p).busy = true →
    (match decode (portAt s p).cw with | .ok i => classAdmits (portClass i) p | .error _ => true) = true) &&
  decide (∀ p, (portAt s p).busy = false → (portAt s p).tmp = none) &&
  (match s.env.target with | some t => Memory.wf t.reg | none => true)

theorem inv_of_check {s : State} (h : invCheck s = true) : Inv s := by
  simp only [invCheck, Bool.and_eq_true, decide_eq_true_eq] at h
  obtain ⟨⟨⟨⟨⟨⟨⟨⟨⟨h1, h2⟩, h3⟩, h4⟩, h5⟩, h6⟩, h7⟩, h8⟩, h9⟩, h10⟩ := h
  exact ⟨h1, h2, h3, h4, h5, fun p hp => h6 p hp, h7, fun p i hb hd => by simpa [hd] using h8 p hb, h9,
    fun t ht => by simpa [ht] using h10⟩

/-! ### Ill-formed terms, which the checks refuse -/

/-- R9: the reference configuration is well formed. -/
theorem test_refCfg_wf : refCfg.wf = true := by decide

/-- R8 (a): two registers at one address. -/
theorem test_addr_not_injective :
    { refCfg with addr := { refCfg.addr with data := ⟨0x0E, 0x11⟩ } }.addrWF = false := by decide

/-- R8 (b): a chip-wide register at a banked register's address, and two chip-wide registers at one address. -/
theorem test_chipWide_clash :
    { refCfg with chipWide := [("MISC", 0x10)] }.chipWideWF = false ∧
      { refCfg with chipWide := [("MISC", 0x1F), ("CLOCK", 0x1F)] }.chipWideWF = false ∧
      { refCfg with chipWide := [("MISC", 0x1F), ("CLOCK", 0x1E)] }.chipWideWF = true := by decide

/-- R8 (c): no direction entry, a wrong direction bit, a family twice, a family of another kind, more than 3 entries. -/
theorem test_seq_ill_formed :
    seqWF true [(.pullup, true)] = false ∧ seqWF true [(.dir, false)] = false ∧
      seqWF true [(.pullup, true), (.pullup, false), (.dir, true)] = false ∧
      seqWF true [(.data, true), (.dir, true)] = false ∧
      seqWF true [(.pullup, true), (.pulldown, true), (.openDrain, true), (.dir, true)] = false := by decide

/-- R8 (c): each of the five sequences is checked. -/
theorem test_modeSeq_each_checked :
    { refCfg with modeSeq := { refCfg.modeSeq with input := [] } }.modeSeqWF = false ∧
      { refCfg with modeSeq := { refCfg.modeSeq with inputPullUp := [] } }.modeSeqWF = false ∧
      { refCfg with modeSeq := { refCfg.modeSeq with inputPullDown := [] } }.modeSeqWF = false ∧
      { refCfg with modeSeq := { refCfg.modeSeq with output := [] } }.modeSeqWF = false ∧
      { refCfg with modeSeq := { refCfg.modeSeq with outputOpenDrain := [] } }.modeSeqWF = false := by decide

/-- A configuration that fails one part fails the whole check. -/
theorem test_cfg_wf_needs_all_parts :
    { refCfg with addr := { refCfg.addr with data := ⟨0x0E, 0x11⟩ } }.wf = false ∧
      { refCfg with chipWide := [("MISC", 0x10)] }.wf = false ∧
      { refCfg with modeSeq := { refCfg.modeSeq with output := [] } }.wf = false := by decide

/-- The canonical form of a register space: rising addresses, no default byte, 256 addresses. -/
theorem test_memory_ill_formed :
    Memory.wf [(5, 1), (5, 2)] = false ∧ Memory.wf [(6, 1), (5, 2)] = false ∧ Memory.wf [(5, 0)] = false ∧
      Memory.wf [(256, 1)] = false ∧ Memory.wf [(5, 1), (255, 2)] = true := by decide

/-- Writing the default byte takes the cell out again. -/
theorem test_memory_write_default : Memory.write (Memory.write [] 7 0xA5) 7 0x00 = [] := by decide

/-! ### Decoding: words written out from R65, R66 and R68 -/

/-- OP 1, A 0x3F; OP 2; OP 3 (R68, Program A). -/
theorem test_decode_lifecycle :
    decode 0x083F00 = .ok (.new 0x3F) ∧ decode 0x100000 = .ok .split ∧ decode 0x180000 = .ok .drop := by decide

/-- OP 8, A 0x10; OP 9, A 0x0E, D 0xFF; OP 10, BIT 3, A 0x0E, D 0 and 1 (2.4). -/
theorem test_decode_engine :
    decode 0x401000 = .ok (.rdreg 0x10) ∧ decode 0x480EFF = .ok (.wrreg 0x0E 0xFF) ∧
      decode 0x530E00 = .ok (.modbit 0x0E 3 false) ∧ decode 0x530E01 = .ok (.modbit 0x0E 3 true) := by decide

/-- OP 17 to 21 (2.6). -/
theorem test_decode_pin_mode :
    decode 0x880000 = .ok .intoInput ∧ decode 0x900000 = .ok .intoInputPu ∧ decode 0x980000 = .ok .intoInputPd ∧
      decode 0xA00000 = .ok .intoOutput ∧ decode 0xA80000 = .ok .intoOutputOd := by decide

/-- OP 24 to 27 (E1). -/
theorem test_decode_pin_data :
    decode 0xC00000 = .ok .setLow ∧ decode 0xC80000 = .ok .setHigh ∧ decode 0xD00000 = .ok .isLow ∧
      decode 0xD80000 = .ok .isHigh := by decide

/-- OP 28 to 30 (2.8). -/
theorem test_decode_pin_irq :
    decode 0xE00000 = .ok .irqDisarm ∧ decode 0xE80000 = .ok .irqArm ∧ decode 0xF00000 = .ok .irqStatus := by decide

/-- Rejected by name: unassigned opcodes and must-be-zero fields (2.3). -/
theorem test_decode_rejects :
    decode 0x000000 = .error (.unassignedOpcode 0) ∧ decode 0xF80000 = .error (.unassignedOpcode 31) ∧
      decode 0x800000 = .error (.unassignedOpcode 16) ∧ decode 0xB00000 = .error (.unassignedOpcode 22) ∧
      decode 0xC80001 = .error (.mustBeZero 25) ∧ decode 0x890000 = .error (.mustBeZero 17) ∧
      decode 0x500002 = .error (.mustBeZero 10) := by decide

/-- The table's numbering: bit 0 of the word is `CW[0]`; a rejected word gives none. -/
theorem test_decodeTableWord :
    decodeTableWord 24 0x57FF01 = some (.modbit 0xFF 7 true) ∧ decodeTableWord 24 0x500002 = none := by decide

/-- A placed word is the next command, answered at reset as R190 says. -/
theorem test_placed_word_runs :
    lastEvent (State.reset.withFetchWord 24 0x087F00) = some (.resp 16 0x087F00 0x000) ∧
      lastEvent (State.reset.withFetchWord 24 0xD80000) = some (.resp 0 0xD80000 0x400) := by decide

/-! ### Operands and the response word -/

/-- 2.1. -/
theorem test_regmap :
    regmap refCfg 0 .dir = (0x0E, 0) ∧ regmap refCfg 7 .data = (0x10, 7) ∧ regmap refCfg 8 .intStatus = (0x19, 0) ∧
      regmap refCfg 11 .dir = (0x0F, 3) ∧ regmap refCfg 15 .data = (0x11, 7) := by decide

/-- R43: a banked, a chip-wide and an unmapped address. -/
theorem test_registerKind :
    registerKind refCfg 0x13 = .banked .intMask .high ∧ registerKind refCfg 0x40 = .unmapped ∧
      registerKind { refCfg with chipWide := [("MISC", 0x1F)] } 0x1F = .chipWide "MISC" := by decide

/-- 2.2. -/
theorem test_merge :
    merge 0xFF 0 false = 0xFE ∧ merge 0x00 7 true = 0x80 ∧ merge 0xA5 2 false = 0xA1 ∧ merge 0xA5 2 true = 0xA5 ∧
      merge 0x5A 0 true = 0x5B ∧ merge 0xFF 7 false = 0x7F ∧ merge 0x00 0 false = 0x00 := by decide

/-- R22, R42, R17, R41: the codes the tables give. -/
theorem test_codes :
    modeTag .outputOpenDrain = 5 ∧ familyCode .intStatus = 6 ∧ phaseCode .wr = 2 ∧ bankNumber (bank 8) = 1 ∧
      responseWord .busError 0x05 = 0x105 := by decide

/-- R44: the 16-bit view has the high bank in its high byte. -/
theorem test_view16 : view16 refCfg (target [(0x0E, 0x5A), (0x0F, 0xA5)] 0 []) .dir = 0xA55A := by decide

/-! ### One step of each command -/

/-- 2.3, 2.9: `NEW 0x7F` in the reset state. -/
theorem test_new :
    lastEvent (atReset (envOf [.submit 16 0x087F00] none)) = some (.resp 16 0x087F00 0x000) ∧
      (outcome (step (atReset (envOf [.submit 16 0x087F00] none)))).devaddr = 0x7F ∧
      (outcome (step (atReset (envOf [.submit 16 0x087F00] none)))).refcnt = 1 := by decide

/-- 2.3: `NEW 0x80` in the reset state, and in state `DEVICE`. -/
theorem test_new_refused :
    lastEvent (atReset (envOf [.submit 16 0x088000] none)) = some (.resp 16 0x088000 0x300) ∧
      lastEvent (atDevice idle free (envOf [.submit 16 0x088000] none)) = some (.resp 16 0x088000 0x400) := by decide

/-- 2.9: `SPLIT`. -/
theorem test_split :
    (outcome (step (atDevice idle free (envOf [.submit 16 0x100000] none)))).refcnt = 16 ∧
      (outcome (step (atDevice idle free (envOf [.submit 16 0x100000] none)))).live =
        (Vector.replicate 17 true).set 16 false := by decide

/-- 2.9: a second `SPLIT`. -/
theorem test_split_twice :
    lastEvent (atPins .unconfigured 0 idle free (envOf [.submit 16 0x100000] none)) =
      some (.resp 16 0x100000 0x400) := by decide

/-- 2.9: `DROP` of pin 5. -/
theorem test_drop :
    (outcome (step (atPins .unconfigured 5 idle free (envOf [.submit 5 0x180000] none)))).refcnt = 15 ∧
      (outcome (step (atPins .unconfigured 5 idle free (envOf [.submit 5 0x180000] none)))).live[5] = false := by decide

/-- 2.3: `DROP` on `PD` after `SPLIT`. -/
theorem test_drop_dead :
    lastEvent (atPins .unconfigured 5 idle free (envOf [.submit 16 0x180000] none)) =
      some (.resp 16 0x180000 0x400) := by decide

/-- 2.4: `RDREG 0x10` of outputs. -/
theorem test_rdreg :
    lastEvent (atDevice (busyAt 0x401000 0 .rd none) (held 16) (envOf [.busRd 16 none] (some (target [(0x10, 0xA5)] 0 [])))) =
      some (.resp 16 0x401000 0x0A5) := by decide

/-- 2.4: `RDREG 0x18` returns the status byte, and the target clears it. -/
theorem test_rdreg_status :
    lastEvent (atDevice (busyAt 0x401800 0 .rd none) (held 16) (envOf [.busRd 16 none] (some (target [(0x18, 0x81)] 0 [])))) =
        some (.resp 16 0x401800 0x081) ∧
      regAfter (atDevice (busyAt 0x401800 0 .rd none) (held 16) (envOf [.busRd 16 none] (some (target [(0x18, 0x81)] 0 []))))
        0x18 = some 0x00 := by decide

/-- 2.4: `WRREG 0x0E, 0xFF`, from the gate to the answer. -/
theorem test_wrreg :
    (outcome (step (atDevice (busyAt 0x480EFF 0 .wait none) free (envOf [.acq 16] none)))).port[16].ph = .wr ∧
      regAfter (atDevice (busyAt 0x480EFF 0 .wr none) (held 16) (envOf [.busWr 16 none] (some blank))) 0x0E =
        some 0xFF := by decide

/-- 2.4: `MODBIT 0x0E, 3, 0` of 0xFF. -/
theorem test_modbit :
    (outcome (step (atDevice (busyAt 0x530E00 0 .rd none) (held 16) (envOf [.busRd 16 none]
        (some (target [(0x0E, 0xFF)] 0 [])))))).port[16].tmp = some 0xFF ∧
      regAfter (atDevice (busyAt 0x530E00 0 .wr (some 0xFF)) (held 16) (envOf [.busWr 16 none]
        (some (target [(0x0E, 0xFF)] 0 [])))) 0x0E = some 0xF7 := by decide

/-- 2.4: `MODBIT 0x0E, 3, 1` whose read fails with 0x05. -/
theorem test_modbit_read_fails :
    lastEvent (atDevice (busyAt 0x530E01 0 .rd none) (held 16) (envOf [.busRd 16 none] (some (target [] 0 [(1, 0x05)])))) =
      some (.resp 16 0x530E01 0x105) := by decide

/-- 2.6: the last write of `P1: INTO_INPUT`. -/
theorem test_into_input :
    (outcome (step (atPins .unconfigured 1 (busyAt 0x880000 2 .wr (some 0xFF)) (held 1) (envOf [.busWr 1 (some .ok)]
        none)))).hist = [.busW 1 0x3F [0x0E, 0xFF] .ok, .resp 1 0x880000 0x000] ∧
      (outcome (step (atPins .unconfigured 1 (busyAt 0x880000 2 .wr (some 0xFF)) (held 1) (envOf [.busWr 1 (some .ok)]
        none)))).mode[1] = .input := by decide

/-- 2.6: the second micro-operation of `P10: INTO_INPUT_PU`. -/
theorem test_into_input_pu :
    lastEvent (atPins .unconfigured 10 (busyAt 0x900000 1 .wr (some 0x00)) (held 10) (envOf [.busWr 10 (some .ok)] none)) =
        some (.busW 10 0x3F [0x07, 0x04] .ok) ∧
      (outcome (step (atPins .unconfigured 10 (busyAt 0x900000 1 .wr (some 0x00)) (held 10) (envOf [.busWr 10 (some .ok)]
        none)))).port[10] = busyAt 0x900000 2 .wait none := by decide

/-- Program C: `P2: INTO_INPUT_PU` whose fourth transfer fails keeps the tag. -/
theorem test_into_input_pu_fails :
    lastEvent (atPins .unconfigured 2 (busyAt 0x900000 1 .wr (some 0x00)) (held 2) (envOf [.busWr 2 (some (.err 0x02))] none)) =
        some (.resp 2 0x900000 0x102) ∧
      (outcome (step (atPins .unconfigured 2 (busyAt 0x900000 1 .wr (some 0x00)) (held 2)
        (envOf [.busWr 2 (some (.err 0x02))] none)))).mode[2] = .unconfigured := by decide

/-- 2.6: the second write of `P7: INTO_INPUT_PD`. -/
theorem test_into_input_pd :
    lastEvent (atPins .unconfigured 7 (busyAt 0x980000 1 .wr (some 0x00)) (held 7) (envOf [.busWr 7 (some .ok)] none)) =
      some (.busW 7 0x3F [0x08, 0x80] .ok) := by decide

/-- E1: the last write of `P9: INTO_OUTPUT`. -/
theorem test_into_output :
    (outcome (step (atPins .unconfigured 9 (busyAt 0xA00000 1 .wr (some 0xFF)) (held 9) (envOf [.busWr 9 (some .ok)]
        none)))).hist = [.busW 9 0x3F [0x0F, 0xFD] .ok, .resp 9 0xA00000 0x000] ∧
      (outcome (step (atPins .unconfigured 9 (busyAt 0xA00000 1 .wr (some 0xFF)) (held 9) (envOf [.busWr 9 (some .ok)]
        none)))).mode[9] = .output := by decide

/-- 2.6: both writes of `P15: INTO_OUTPUT_OD`. -/
theorem test_into_output_od :
    lastEvent (atPins .unconfigured 15 (busyAt 0xA80000 0 .wr (some 0x00)) (held 15) (envOf [.busWr 15 (some .ok)] none)) =
        some (.busW 15 0x3F [0x0B, 0x80] .ok) ∧
      (outcome (step (atPins .unconfigured 15 (busyAt 0xA80000 1 .wr (some 0xFF)) (held 15) (envOf [.busWr 15 (some .ok)]
        none)))).hist = [.busW 15 0x3F [0x0F, 0x7F] .ok, .resp 15 0xA80000 0x000] := by decide

/-- 2.7: `P9: SET_LOW`. -/
theorem test_set_low :
    (outcome (step (atPins .output 9 (busyAt 0xC00000 0 .wr (some 0xFF)) (held 9) (envOf [.busWr 9 (some .ok)]
      none)))).hist = [.busW 9 0x3F [0x11, 0xFD] .ok, .resp 9 0xC00000 0x000] := by decide

/-- 2.7: `P9: SET_LOW` on a pulled-up input. -/
theorem test_set_low_mode_error :
    lastEvent (atPins .inputPullUp 9 idle free (envOf [.submit 9 0xC00000] none)) = some (.resp 9 0xC00000 0x200) := by
  decide

/-- 2.7, R203: the read and the write of `P0: SET_HIGH` among inputs. -/
theorem test_set_high :
    (outcome (step (atPins .output 0 (busyAt 0xC80000 0 .rd none) (held 0) (envOf [.busRd 0 none]
        (some (target [(0x0E, 0xFE), (0x10, 0xF0)] 0 [])))))).port[0].tmp = some 0x00 ∧
      regAfter (atPins .output 0 (busyAt 0xC80000 0 .wr (some 0x00)) (held 0) (envOf [.busWr 0 none]
        (some (target [(0x0E, 0xFE), (0x10, 0xF0)] 0 [])))) 0x10 = some 0x01 := by decide

/-- 2.7: `P9: SET_HIGH` on an unconfigured pin. -/
theorem test_set_high_mode_error :
    lastEvent (atPins .unconfigured 9 idle free (envOf [.submit 9 0xC80000] none)) = some (.resp 9 0xC80000 0x200) := by
  decide

/-- 2.7: `P6: IS_LOW` and `P5: IS_LOW` with only pin 6 high. -/
theorem test_is_low :
    lastEvent (atPins .unconfigured 6 (busyAt 0xD00000 0 .rd none) (held 6) (envOf [.busRd 6 none]
        (some (target [(0x0E, 0xFF)] 0x0040 [])))) = some (.resp 6 0xD00000 0x000) ∧
      lastEvent (atPins .unconfigured 5 (busyAt 0xD00000 0 .rd none) (held 5) (envOf [.busRd 5 none]
        (some (target [(0x0E, 0xFF)] 0x0040 [])))) = some (.resp 5 0xD00000 0x001) := by decide

/-- 2.7: `P6: IS_HIGH` with pin 6 high. -/
theorem test_is_high :
    lastEvent (atPins .unconfigured 6 (busyAt 0xD80000 0 .rd none) (held 6) (envOf [.busRd 6 none]
      (some (target [(0x0E, 0xFF)] 0x0040 [])))) = some (.resp 6 0xD80000 0x001) := by decide

/-- 2.7: `P6: IS_HIGH` whose read fails with 0x02. -/
theorem test_is_high_fails :
    lastEvent (atPins .unconfigured 6 (busyAt 0xD80000 0 .rd none) (held 6) (envOf [.busRd 6 none]
      (some (target [(0x0E, 0xFF)] 0x0040 [(1, 0x02)])))) = some (.resp 6 0xD80000 0x102) := by decide

/-- 2.8: `P3: IRQ_ARM` and `P12: IRQ_ARM`. -/
theorem test_irq_arm :
    regAfter (atPins .unconfigured 3 (busyAt 0xE80000 0 .wr (some 0xFF)) (held 3) (envOf [.busWr 3 none]
        (some (target [(0x12, 0xFF)] 0 [])))) 0x12 = some 0xF7 ∧
      regAfter (atPins .unconfigured 12 (busyAt 0xE80000 0 .wr (some 0xFF)) (held 12) (envOf [.busWr 12 none]
        (some (target [(0x13, 0xFF)] 0 [])))) 0x13 = some 0xEF := by decide

/-- 2.8: `P3: IRQ_DISARM`. -/
theorem test_irq_disarm :
    regAfter (atPins .unconfigured 3 (busyAt 0xE00000 0 .wr (some 0xF7)) (held 3) (envOf [.busWr 3 none]
      (some (target [(0x12, 0xF7)] 0 [])))) 0x12 = some 0xFF := by decide

/-- 2.8: with `IRQ_ARMED = 1` the two commands exchange their written values. -/
theorem test_irq_polarity :
    lastEvent { atPins .unconfigured 3 (busyAt 0xE80000 0 .wr (some 0xF7)) (held 3) (envOf [.busWr 3 (some (.err 0))] none) with
        cfg := { refCfg with irqArmed := true } } = some (.resp 3 0xE80000 0x100) ∧
      (outcome (step { atPins .unconfigured 3 (busyAt 0xE80000 0 .wr (some 0xF7)) (held 3) (envOf [.busWr 3 (some .ok)] none)
        with cfg := { refCfg with irqArmed := true } })).hist =
        [.busW 3 0x3F [0x12, 0xFF] .ok, .resp 3 0xE80000 0x000] := by decide

/-- 2.8: `P12: IRQ_STATUS` returns the whole byte and the target clears it. -/
theorem test_irq_status :
    lastEvent (atPins .unconfigured 12 (busyAt 0xF00000 0 .rd none) (held 12) (envOf [.busRd 12 none]
        (some (target [(0x19, 0x10)] 0 [])))) = some (.resp 12 0xF00000 0x010) ∧
      regAfter (atPins .unconfigured 12 (busyAt 0xF00000 0 .rd none) (held 12) (envOf [.busRd 12 none]
        (some (target [(0x19, 0x10)] 0 [])))) 0x19 = some 0x00 := by decide

/-! ### The gate, the environment and the moves that are no step -/

/-- A1: ACQ takes the free gate; with the gate held it changes nothing but the moves to come. -/
theorem test_gate :
    (outcome (step (atPins .unconfigured 1 (busyAt 0xD80000 0 .wait none) free (envOf [.acq 1] none)))).gate = held 1 ∧
      (outcome (step (atPins .unconfigured 1 (busyAt 0xD80000 0 .wait none) (held 0) (envOf [.acq 1] none)))).port[1] =
        busyAt 0xD80000 0 .wait none := by decide

/-- Whether a step is refused, and why. -/
def refusal (r : Result) : Option Refusal :=
  match r with
  | .refused r => some r
  | .next _    => none
  | .fault _   => none

/-- A1, D32: a transfer by a port without the gate, and SUBMIT on a busy port, are no steps. -/
theorem test_no_such_step :
    refusal (step (atPins .unconfigured 1 (busyAt 0xD80000 0 .rd none) (held 0) (envOf [.busRd 1 none] none))) =
        some .stepNotEnabled ∧
      refusal (step (atPins .unconfigured 1 (busyAt 0xD80000 0 .wait none) free (envOf [.submit 1 0xD80000] none))) =
        some .submitWhileBusy ∧
      refusal (exec .split (atDevice idle free (envOf [] none))) = some .noCommandMove := by decide

/-- Program D: events of an armed and of an unarmed pin; a level; a poke. -/
theorem test_environment :
    regAfter (atReset (envOf [.event 3] (some (target [(0x12, 0xF6)] 0 [])))) 0x18 = some 0x08 ∧
      regAfter (atReset (envOf [.event 5] (some (target [(0x12, 0xF6)] 0 [])))) 0x18 = some 0x00 ∧
      ((outcome (step (atReset (envOf [.level 1 true] (some blank))))).env.target.map Target.level) = some 0x0002 ∧
      regAfter (atReset (envOf [.poke 0x10 0x5A] (some blank))) 0x10 = some 0x5A := by decide

/-- Program E, command 12: a target at another address answers 0x01. -/
theorem test_wrong_address :
    lastEvent { atDevice (busyAt 0x400E00 0 .rd none) (held 16) (envOf [.busRd 16 none] (some blank)) with
      devaddr := 0x70 } = some (.resp 16 0x400E00 0x101) := by decide

/-! ### Witnesses: every statement's hypotheses are met, clause by clause

The states named here are used by several witnesses. -/

/-- A submission on an idle `PD` of a device. -/
def devSubmit (cw : CmdWord) : State := atDevice idle free (envOf [.submit 16 cw] none)

/-- A submission on an idle pin port, every pin with the tag `m`. -/
def pinSubmit (m : Mode) (p : Port) (cw : CmdWord) : State := atPins m p idle free (envOf [.submit p cw] none)

/-- `PD` waiting with the word `cw`, the gate free, its ACQ next. -/
def devWait (cw : CmdWord) : State := atDevice (busyAt cw 0 .wait none) free (envOf [.acq 16] none)

/-- A pin port waiting with the word `cw`, the gate free, its ACQ next. -/
def pinWait (p : Port) (cw : CmdWord) (k : Fin 3) : State :=
  atPins .output p (busyAt cw k .wait none) free (envOf [.acq p] none)

/-- `PD` about to read. -/
def devRead (cw : CmdWord) (r : ReadAnswer) : State :=
  atDevice (busyAt cw 0 .rd none) (held 16) (envOf [.busRd 16 (some r)] none)

/-- A pin port about to read. -/
def pinRead (p : Port) (cw : CmdWord) (k : Fin 3) (r : ReadAnswer) : State :=
  atPins .output p (busyAt cw k .rd none) (held p) (envOf [.busRd p (some r)] none)

/-- `PD` about to write. -/
def devWrite (cw : CmdWord) (tmp : Option Byte) (r : WriteAnswer) : State :=
  atDevice (busyAt cw 0 .wr tmp) (held 16) (envOf [.busWr 16 (some r)] none)

/-- A pin port about to write. -/
def pinWrite (p : Port) (cw : CmdWord) (k : Fin 3) (tmp : Byte) (r : WriteAnswer) : State :=
  atPins .output p (busyAt cw k .wr (some tmp)) (held p) (envOf [.busWr p (some r)] none)

/-- `DecodedWordIsItsEncoding`. -/
theorem witness_decoded_word : decode 0x57FF01 = .ok (.modbit 0xFF 7 true) := by decide

/-- `UnassignedOpcodeIsIllegal`, at the lowest and the highest unassigned opcode. -/
theorem witness_unassigned :
    ((devSubmit 0x07FFFF).env.moves = [.submit 16 0x07FFFF] ∧ (devSubmit 0x07FFFF).port[(16 : Port)].busy = false ∧
        (fieldOp 0x07FFFF).toNat = 0) ∧
      ((pinSubmit .input 0 0xF80000).env.moves = [.submit 0 0xF80000] ∧
        (pinSubmit .input 0 0xF80000).port[(0 : Port)].busy = false ∧ (fieldOp 0xF80000).toNat = 31) := by decide

/-- `ReservedFieldNotZeroIsIllegal`: a word for each of its four cases, each with one reserved bit set. -/
theorem witness_reserved :
    (∀ w : BitVec 24, (devSubmit w).env.moves = [.submit 16 w] ∧ (devSubmit w).port[(16 : Port)].busy = false) ∧
      ((fieldOp 0xC80001).toNat = 25 ∧ fieldD 0xC80001 ≠ 0) ∧ ((fieldOp 0x143F00).toNat = 2 ∧ fieldBit 0x143F00 ≠ 0) ∧
      ((fieldOp 0x083F01).toNat = 1 ∧ fieldD 0x083F01 ≠ 0) ∧ ((fieldOp 0x4C0EFF).toNat = 9 ∧ fieldBit 0x4C0EFF ≠ 0) ∧
      ((fieldOp 0x500080).toNat = 10 ∧ (fieldD 0x500080).extractLsb' 1 7 ≠ 0) :=
  ⟨fun _ => ⟨rfl, rfl⟩, by decide⟩

/-- `PortClassIsEnforced`, for a device command on the last pin port, a pin command on `PD`, and `DROP` on both kinds. -/
theorem witness_port_class :
    ((pinSubmit .input 15 (encode (.rdreg 0x0E))).env.moves = [.submit 15 (encode (.rdreg 0x0E))] ∧
        WrongPort 15 (.rdreg 0x0E)) ∧
      ((devSubmit (encode .setHigh)).env.moves = [.submit 16 (encode .setHigh)] ∧ WrongPort 16 .setHigh) ∧
      ((devSubmit (encode .drop)).env.moves = [.submit 16 (encode .drop)] ∧ (devSubmit (encode .drop)).live[(16 : Port)] = true ∧
        (devSubmit (encode .drop)).port[(16 : Port)].busy = false) ∧
      ((pinSubmit .input 0 (encode .drop)).env.moves = [.submit 0 (encode .drop)] ∧
        (pinSubmit .input 0 (encode .drop)).live[(0 : Port)] = true ∧
        (pinSubmit .input 0 (encode .drop)).port[(0 : Port)].busy = false) := by
  simp only [WrongPort]; decide

/-- The submissions of `witness_submit_order`: whatever the word, the port is idle and the word is the next move. -/
theorem witness_submit_order_moves :
    (∀ w : BitVec 24, (devSubmit w).env.moves = [.submit 16 w] ∧ (devSubmit w).port[(16 : Port)].busy = false) ∧
      (∀ m : Mode, ∀ w : BitVec 24, (pinSubmit m 15 w).env.moves = [.submit 15 w] ∧
        (pinSubmit m 15 w).port[(15 : Port)].busy = false ∧ (pinSubmit m 15 w).cfg.wf = true) ∧
      (∀ (p : Port) (w : BitVec 24), (atReset (envOf [.submit p w] none)).env.moves = [.submit p w] ∧
        (atReset (envOf [.submit p w] none)).port[p].busy = false ∧ (atReset (envOf [.submit p w] none)).cfg.wf = true) := by
  refine ⟨fun _ => ⟨rfl, rfl⟩, fun m _ => ⟨rfl, ?_, rfl⟩, fun p w => ⟨rfl, ?_, rfl⟩⟩
  · cases m <;> rfl
  · show State.reset.port[p].busy = false
    revert p; decide

/-- `StepRunsDecodedInstruction`: a submission, an acquisition, a read and a write. -/
theorem witness_step_decoded :
    ((devSubmit 0x401000).env.moves = [.submit 16 0x401000] ∧ (devSubmit 0x401000).port[(16 : Port)].busy = false ∧
        decode 0x401000 = .ok (.rdreg 0x10)) ∧
      ((devWait 0x401000).env.moves = [.acq 16] ∧ (devWait 0x401000).port[(16 : Port)].busy = true ∧
        decode (devWait 0x401000).port[(16 : Port)].cw = .ok (.rdreg 0x10)) ∧
      ((pinRead 0 0xC80000 0 (.ok 0)).env.moves = [.busRd 0 (some (.ok 0))] ∧
        decode (pinRead 0 0xC80000 0 (.ok 0)).port[(0 : Port)].cw = .ok .setHigh) ∧
      ((pinWrite 0 0xC80000 0 0 .ok).env.moves = [.busWr 0 (some .ok)] ∧
        decode (pinWrite 0 0xC80000 0 0 .ok).port[(0 : Port)].cw = .ok .setHigh) := by decide

/-- `PlacedWordRunsNext`, for a device command and a pin command. -/
theorem witness_placed :
    ((16 : Port) = (if portClass (.new 0x3F) = .pin then 0 else 16) ∧ State.reset.port[(16 : Port)].busy = false) ∧
      ((0 : Port) = (if portClass .irqStatus = .pin then 0 else 16) ∧ State.reset.port[(0 : Port)].busy = false) := by decide

/-- `SubmitChecksInOrder`: a state and a word for each case of its rule. -/
theorem witness_submit_order :
    ((devSubmit 0x000000).cfg.wf = true ∧ ∃ e, decode 0x000000 = .error e) ∧
      (atDevice (busyAt 0x401000 0 .wait none) free (envOf [.submit 16 0x100000] none)).port[(16 : Port)].busy = true ∧
      (decode 0xC80000 = .ok .setHigh ∧ WrongPort 16 .setHigh) ∧
      (¬ WrongPort 16 (.new 0x80) ∧ WrongLiveness (devSubmit 0x088000) 16 (.new 0x80)) ∧
      (¬ WrongPort 0 .isHigh ∧ WrongLiveness (atReset (envOf [.submit 0 0xD80000] none)) 0 .isHigh) ∧
      (¬ WrongPort 16 (.new 0x80) ∧ ¬ WrongLiveness (atReset (envOf [.submit 16 0x088000] none)) 16 (.new 0x80) ∧
        BadAddress (.new 0x80)) ∧
      (¬ WrongPort 15 .setLow ∧ ¬ WrongLiveness (pinSubmit .inputPullDown 15 0xC00000) 15 .setLow ∧
        WrongMode (pinSubmit .inputPullDown 15 0xC00000) 15 .setLow) ∧
      (¬ WrongPort 16 (.new 0x7F) ∧ ¬ WrongLiveness (atReset (envOf [.submit 16 0x087F00] none)) 16 (.new 0x7F) ∧
        ¬ BadAddress (.new 0x7F) ∧ ¬ WrongMode (atReset (envOf [.submit 16 0x087F00] none)) 16 (.new 0x7F) ∧
        IsLifecycle (.new 0x7F)) ∧
      (¬ WrongPort 15 .setLow ∧ ¬ WrongLiveness (pinSubmit .outputOpenDrain 15 0xC00000) 15 .setLow ∧
        ¬ BadAddress .setLow ∧ ¬ WrongMode (pinSubmit .outputOpenDrain 15 0xC00000) 15 .setLow ∧ ¬ IsLifecycle .setLow) := by
  refine ⟨⟨by decide, _, rfl⟩, by decide, ⟨by decide, by simp [WrongPort]⟩, ⟨by simp [WrongPort], ?_⟩,
    ⟨by simp [WrongPort], ?_⟩, ⟨by simp [WrongPort], ?_, ?_⟩, ⟨by simp [WrongPort], ?_, ?_⟩,
    ⟨by simp [WrongPort], ?_, ?_, ?_, by simp [IsLifecycle]⟩, ⟨by simp [WrongPort], ?_, by simp [BadAddress], ?_,
    by simp [IsLifecycle]⟩⟩
  · simp only [WrongLiveness]; decide
  · simp only [WrongLiveness]; decide
  · simp only [WrongLiveness]; decide
  · simp only [BadAddress]; decide
  · simp only [WrongLiveness]; decide
  · exact ⟨.inr rfl, 15, by decide⟩
  · simp only [WrongLiveness]; decide
  · simp only [BadAddress]; decide
  · rintro ⟨h | h, -⟩ <;> cases h
  · simp only [WrongLiveness]; decide
  · rintro ⟨-, q, hq, hm⟩
    revert hq hm; revert q; decide

/-- `AcquireNeedsFreeGate`: the three kinds of micro-operation, a held gate, a port that does not wait, an idle port. -/
theorem witness_acquire :
    ((devWait 0x480EFF).env.moves = [.acq 16] ∧ (devWait 0x480EFF).port[(16 : Port)].busy = true ∧
        (devWait 0x480EFF).port[(16 : Port)].ph = .wait ∧ (devWait 0x480EFF).gate.locked = false ∧
        currentOp (devWait 0x480EFF) 16 = some (.write 0x0E 0xFF)) ∧
      currentOp (devWait 0x401000) 16 = some (.read 0x10) ∧ currentOp (pinWait 0 0xC80000 0) 0 = some (.rmw 0x10 0 true) ∧
      (atPins .output 1 (busyAt 0xD80000 0 .wait none) (held 0) (envOf [.acq 1] none)).gate.locked = true ∧
      (atPins .output 1 (busyAt 0xD80000 0 .rd none) (held 1) (envOf [.acq 1] none)).port[(1 : Port)].ph ≠ .wait ∧
      (atPins .output 1 idle free (envOf [.acq 1] none)).port[(1 : Port)].busy = false := by decide

/-- `BusReadStep`: failure and success of a read and of a read-modify-write, and three ways to have no such step. -/
theorem witness_bus_read :
    ((devRead 0x401000 (.err 5)).cfg.wf = true ∧ (devRead 0x401000 (.err 5)).env.moves = [.busRd 16 (some (.err 5))] ∧
        (devRead 0x401000 (.err 5)).port[(16 : Port)].busy = true ∧ (devRead 0x401000 (.err 5)).port[(16 : Port)].ph = .rd ∧
        Owns (devRead 0x401000 (.err 5)) 16 ∧ decode (devRead 0x401000 (.err 5)).port[(16 : Port)].cw = .ok (.rdreg 0x10) ∧
        currentOp (devRead 0x401000 (.err 5)) 16 = some (.read 0x10) ∧
        readReply (devRead 0x401000 (.err 5)) 0x10 (some (.err 5)) = (.err 5, none)) ∧
      (currentOp (devRead 0x401000 (.ok 7)) 16 = some (.read 0x10) ∧
        readReply (devRead 0x401000 (.ok 7)) 0x10 (some (.ok 7)) = (.ok 7, none)) ∧
      (Owns (pinRead 0 0xC80000 0 (.ok 7)) 0 ∧ currentOp (pinRead 0 0xC80000 0 (.ok 7)) 0 = some (.rmw 0x10 0 true) ∧
        readReply (pinRead 0 0xC80000 0 (.ok 7)) 0x10 (some (.ok 7)) = (.ok 7, none)) ∧
      (atDevice idle free (envOf [.busRd 16 none] none)).port[(16 : Port)].busy = false ∧
      (atDevice (busyAt 0x401000 0 .wait none) free (envOf [.busRd 16 none] none)).port[(16 : Port)].ph ≠ .rd ∧
      ¬ Owns (atPins .input 1 (busyAt 0xD80000 0 .rd none) (held 0) (envOf [.busRd 1 none] none)) 1 := by
  decide

/-- `BusWriteStep`: failure and success of a write and of a read-modify-write (with and without a further
micro-operation), and three ways to have no such step. -/
theorem witness_bus_write :
    ((devWrite 0x480EFF none .ok).cfg.wf = true ∧ (devWrite 0x480EFF none .ok).env.moves = [.busWr 16 (some .ok)] ∧
        (devWrite 0x480EFF none .ok).port[(16 : Port)].busy = true ∧ (devWrite 0x480EFF none .ok).port[(16 : Port)].ph = .wr ∧
        Owns (devWrite 0x480EFF none .ok) 16 ∧
        decode (devWrite 0x480EFF none .ok).port[(16 : Port)].cw = .ok (.wrreg 0x0E 0xFF) ∧
        currentOp (devWrite 0x480EFF none .ok) 16 = some (.write 0x0E 0xFF) ∧
        writeReply (devWrite 0x480EFF none .ok) 0x0E 0xFF (some .ok) = (.ok, none)) ∧
      writeReply (devWrite 0x480EFF none (.err 6)) 0x0E 0xFF (some (.err 6)) = (.err 6, none) ∧
      (Owns (pinWrite 15 0xA80000 0 0 .ok) 15 ∧ currentOp (pinWrite 15 0xA80000 0 0 .ok) 15 = some (.rmw 0x0B 7 true) ∧
        (pinWrite 15 0xA80000 0 0 .ok).port[(15 : Port)].tmp = some 0) ∧
      (currentOp (pinWrite 15 0xA80000 1 0xFF .ok) 15 = some (.rmw 0x0F 7 false) ∧
        (pinWrite 15 0xA80000 1 0xFF .ok).port[(15 : Port)].tmp = some 0xFF) ∧
      (atDevice idle free (envOf [.busWr 16 none] none)).port[(16 : Port)].busy = false ∧
      (atDevice (busyAt 0x480EFF 0 .wait none) free (envOf [.busWr 16 none] none)).port[(16 : Port)].ph ≠ .wr ∧
      ¬ Owns (atPins .input 1 (busyAt 0xC80000 0 .wr (some 0)) (held 0) (envOf [.busWr 1 none] none)) 1 := by
  decide

/-- `NewConstructsDevice`, at the highest legal address and the lowest illegal one. -/
theorem witness_new :
    ((atReset (envOf [.submit 16 (encode (.new 0x7F))] none)).env.moves = [.submit 16 (encode (.new 0x7F))] ∧
        (atReset (envOf [.submit 16 (encode (.new 0x7F))] none)).port[(16 : Port)].busy = false ∧
        (atReset (envOf [.submit 16 (encode (.new 0x7F))] none)).refcnt = 0 ∧ (0x7F : Byte).getLsbD 7 = false) ∧
      (0x80 : Byte).getLsbD 7 = true ∧
      ((devSubmit (encode (.new 0x7F))).env.moves = [.submit 16 (encode (.new 0x7F))] ∧
        (devSubmit (encode (.new 0x7F))).refcnt ≠ 0) ∧
      ((pinSubmit .input 15 (encode (.new 0x7F))).env.moves = [.submit 15 (encode (.new 0x7F))] ∧ (15 : Port) ≠ 16) := by
  decide

/-- `SplitYieldsSixteenPins`. -/
theorem witness_split :
    ((devSubmit (encode .split)).env.moves = [.submit 16 (encode .split)] ∧
        (devSubmit (encode .split)).port[(16 : Port)].busy = false ∧ (devSubmit (encode .split)).live[(16 : Port)] = true) ∧
      ((pinSubmit .input 15 (encode .split)).env.moves = [.submit 15 (encode .split)] ∧ (15 : Port) ≠ 16) ∧
      ((atReset (envOf [.submit 16 (encode .split)] none)).env.moves = [.submit 16 (encode .split)] ∧
        (atReset (envOf [.submit 16 (encode .split)] none)).live[(16 : Port)] = false) := by decide

/-- `DropEndsHandle`, on `PD`, on a pin port, and on a dead handle. -/
theorem witness_drop :
    ((devSubmit (encode .drop)).env.moves = [.submit 16 (encode .drop)] ∧
        (devSubmit (encode .drop)).port[(16 : Port)].busy = false ∧ (devSubmit (encode .drop)).live[(16 : Port)] = true) ∧
      ((pinSubmit .input 0 (encode .drop)).env.moves = [.submit 0 (encode .drop)] ∧
        (pinSubmit .input 0 (encode .drop)).live[(0 : Port)] = true) ∧
      ((atReset (envOf [.submit 16 (encode .drop)] none)).env.moves = [.submit 16 (encode .drop)] ∧
        (atReset (envOf [.submit 16 (encode .drop)] none)).live[(16 : Port)] = false) := by decide

/-- The hypotheses of `RdregReadsRegister`: accepted, acquires, reads well, reads badly. -/
theorem witness_rdreg :
    ((devSubmit (encode (.rdreg 0xFF))).env.moves = [.submit 16 (encode (.rdreg 0xFF))] ∧
        (devSubmit (encode (.rdreg 0xFF))).port[(16 : Port)].busy = false ∧
        (devSubmit (encode (.rdreg 0xFF))).live[(16 : Port)] = true) ∧
      ((devWait (encode (.rdreg 0xFF))).env.moves = [.acq 16] ∧ AtPhase (devWait (encode (.rdreg 0xFF))) 16 .wait 0 ∧
        (devWait (encode (.rdreg 0xFF))).gate.locked = false) ∧
      ((devRead (encode (.rdreg 0xFF)) (.ok 9)).env.moves = [.busRd 16 (some (.ok 9))] ∧
        AtPhase (devRead (encode (.rdreg 0xFF)) (.ok 9)) 16 .rd 0 ∧ Owns (devRead (encode (.rdreg 0xFF)) (.ok 9)) 16 ∧
        readReply (devRead (encode (.rdreg 0xFF)) (.ok 9)) 0xFF (some (.ok 9)) = (.ok 9, none)) ∧
      readReply (devRead (encode (.rdreg 0xFF)) (.err 9)) 0xFF (some (.err 9)) = (.err 9, none) := by
  decide

/-- The hypotheses of `WrregWritesRegister`: accepted, acquires, writes well, writes badly. -/
theorem witness_wrreg :
    ((devSubmit (encode (.wrreg 0xFF 0))).env.moves = [.submit 16 (encode (.wrreg 0xFF 0))] ∧
        (devSubmit (encode (.wrreg 0xFF 0))).live[(16 : Port)] = true) ∧
      ((devWait (encode (.wrreg 0xFF 0))).env.moves = [.acq 16] ∧ AtPhase (devWait (encode (.wrreg 0xFF 0))) 16 .wait 0) ∧
      ((devWrite (encode (.wrreg 0xFF 0)) none .ok).env.moves = [.busWr 16 (some .ok)] ∧
        AtPhase (devWrite (encode (.wrreg 0xFF 0)) none .ok) 16 .wr 0 ∧ Owns (devWrite (encode (.wrreg 0xFF 0)) none .ok) 16 ∧
        writeReply (devWrite (encode (.wrreg 0xFF 0)) none .ok) 0xFF 0 (some .ok) = (.ok, none)) ∧
      writeReply (devWrite (encode (.wrreg 0xFF 0)) none (.err 9)) 0xFF 0 (some (.err 9)) = (.err 9, none) := by
  decide

/-- The hypotheses of `ModbitMergesOneBit`: accepted, acquires, reads, writes, each transfer also failing. -/
theorem witness_modbit :
    ((devSubmit (encode (.modbit 0xFF 7 true))).env.moves = [.submit 16 (encode (.modbit 0xFF 7 true))] ∧
        (devSubmit (encode (.modbit 0xFF 7 true))).live[(16 : Port)] = true) ∧
      ((devWait (encode (.modbit 0xFF 7 true))).env.moves = [.acq 16] ∧
        AtPhase (devWait (encode (.modbit 0xFF 7 true))) 16 .wait 0) ∧
      (AtPhase (devRead (encode (.modbit 0xFF 7 true)) (.ok 9)) 16 .rd 0 ∧
        Owns (devRead (encode (.modbit 0xFF 7 true)) (.ok 9)) 16 ∧
        readReply (devRead (encode (.modbit 0xFF 7 true)) (.ok 9)) 0xFF (some (.ok 9)) = (.ok 9, none)) ∧
      readReply (devRead (encode (.modbit 0xFF 7 true)) (.err 9)) 0xFF (some (.err 9)) = (.err 9, none) ∧
      (AtPhase (devWrite (encode (.modbit 0xFF 7 true)) (some 0) .ok) 16 .wr 0 ∧
        Owns (devWrite (encode (.modbit 0xFF 7 true)) (some 0) .ok) 16 ∧
        (devWrite (encode (.modbit 0xFF 7 true)) (some 0) .ok).port[(16 : Port)].tmp = some 0 ∧
        (0x80 : Byte) = merge 0 7 true ∧
        writeReply (devWrite (encode (.modbit 0xFF 7 true)) (some 0) .ok) 0xFF 0x80 (some .ok) = (.ok, none)) ∧
      writeReply (devWrite (encode (.modbit 0xFF 7 true)) (some 0) (.err 9)) 0xFF 0x80 (some (.err 9)) = (.err 9, none) := by
  decide

/-- The hypotheses of the statements about pin commands whose plan is one read, on every pin: accepted, acquires, reads
well, reads badly. -/
theorem witness_pin_read (cw : CmdWord) (hc : cw = encode .isHigh ∨ cw = encode .isLow ∨ cw = encode .irqStatus)
    (q : Pin) :
    ((pinSubmit .unconfigured (pinPort q) cw).env.moves = [.submit (pinPort q) cw] ∧
        (pinSubmit .unconfigured (pinPort q) cw).port[pinPort q].busy = false ∧
        (pinSubmit .unconfigured (pinPort q) cw).live[pinPort q] = true) ∧
      ((pinWait (pinPort q) cw 0).env.moves = [.acq (pinPort q)] ∧ AtPhase (pinWait (pinPort q) cw 0) (pinPort q) .wait 0 ∧
        (pinWait (pinPort q) cw 0).gate.locked = false) ∧
      ((pinRead (pinPort q) cw 0 (.ok 9)).env.moves = [.busRd (pinPort q) (some (.ok 9))] ∧
        AtPhase (pinRead (pinPort q) cw 0 (.ok 9)) (pinPort q) .rd 0 ∧ Owns (pinRead (pinPort q) cw 0 (.ok 9)) (pinPort q)) ∧
      (∀ a, readReply (pinRead (pinPort q) cw 0 (.ok 9)) a (some (.ok 9)) = (.ok 9, none) ∧
        readReply (pinRead (pinPort q) cw 0 (.err 9)) a (some (.err 9)) = (.err 9, none)) := by
  refine ⟨?_, ?_, ?_, fun _ => ⟨rfl, rfl⟩⟩ <;> (rcases hc with rfl | rfl | rfl <;> (revert q; decide))

/-- The hypotheses of the statements about pin commands whose plan is one read-modify-write, on every pin: accepted (in an
output mode), acquires, reads, writes, each transfer also failing. -/
theorem witness_pin_rmw (cw : CmdWord)
    (hc : cw = encode .setHigh ∨ cw = encode .setLow ∨ cw = encode .irqArm ∨ cw = encode .irqDisarm) (q : Pin) :
    ((pinSubmit .outputOpenDrain (pinPort q) cw).env.moves = [.submit (pinPort q) cw] ∧
        (pinSubmit .outputOpenDrain (pinPort q) cw).port[pinPort q].busy = false ∧
        (pinSubmit .outputOpenDrain (pinPort q) cw).live[pinPort q] = true ∧
        (pinSubmit .outputOpenDrain (pinPort q) cw).mode[q] = .outputOpenDrain) ∧
      (AtPhase (pinWait (pinPort q) cw 0) (pinPort q) .wait 0 ∧ (pinWait (pinPort q) cw 0).gate.locked = false) ∧
      (AtPhase (pinRead (pinPort q) cw 0 (.ok 9)) (pinPort q) .rd 0 ∧ Owns (pinRead (pinPort q) cw 0 (.ok 9)) (pinPort q)) ∧
      (AtPhase (pinWrite (pinPort q) cw 0 9 .ok) (pinPort q) .wr 0 ∧ Owns (pinWrite (pinPort q) cw 0 9 .ok) (pinPort q) ∧
        (pinWrite (pinPort q) cw 0 9 .ok).port[pinPort q].tmp = some 9) ∧
      (∀ a w, writeReply (pinWrite (pinPort q) cw 0 9 .ok) a w (some .ok) = (.ok, none) ∧
        writeReply (pinWrite (pinPort q) cw 0 9 (.err 9)) a w (some (.err 9)) = (.err 9, none)) := by
  refine ⟨?_, ?_, ?_, ?_, fun _ _ => ⟨rfl, rfl⟩⟩ <;> (rcases hc with rfl | rfl | rfl | rfl <;> (revert q; decide))

/-- The hypotheses of the statements about the five `INTO_*` commands, on every pin: accepted, and, at the first, the
middle and the last entry of the sequence, acquires, reads and writes. -/
theorem witness_mode_command :
    (∀ q : Pin, (pinSubmit .output (pinPort q) (encode .intoInput)).live[pinPort q] = true ∧
      (pinSubmit .output (pinPort q) (encode .intoInput)).port[pinPort q].busy = false ∧
      (pinSubmit .output (pinPort q) (encode .intoInput)).cfg.wf = true) ∧
    (∀ (q : Pin) (k : Fin 3), (modeSeqOf (pinWait (pinPort q) (encode .intoInput) k).cfg .input)[k.val]? ≠ none ∧
      AtPhase (pinWait (pinPort q) (encode .intoInput) k) (pinPort q) .wait k.val ∧
      AtPhase (pinRead (pinPort q) (encode .intoInput) k (.ok 9)) (pinPort q) .rd k.val ∧
      AtPhase (pinWrite (pinPort q) (encode .intoInput) k 9 .ok) (pinPort q) .wr k.val ∧
      Owns (pinWrite (pinPort q) (encode .intoInput) k 9 .ok) (pinPort q) ∧
      (pinWrite (pinPort q) (encode .intoInput) k 9 .ok).port[pinPort q].tmp = some 9) ∧
    (modeSeqOf refCfg .input).length = 3 ∧ (modeSeqOf refCfg .output).length = 2 := by decide

/-- `SetCommandsCheckTheTag`, for each of the four tags. -/
theorem witness_tag_check :
    ∀ m ∈ [Mode.unconfigured, .input, .inputPullUp, .inputPullDown], ∀ q : Pin,
      (pinSubmit m (pinPort q) (encode .setHigh)).env.moves = [.submit (pinPort q) (encode .setHigh)] ∧
        (pinSubmit m (pinPort q) (encode .setHigh)).port[pinPort q].busy = false ∧
        (pinSubmit m (pinPort q) (encode .setHigh)).live[pinPort q] = true ∧
        (pinSubmit m (pinPort q) (encode .setHigh)).mode[q] = m := by decide

/-- `ReadCommandRunsToResponse`, on `PD` and on the last pin port. -/
theorem witness_read_runs :
    (plan (devSubmit 0).cfg 16 (.rdreg 0x10) = [.read 0x10] ∧ ¬ WrongPort 16 (.rdreg 0x10) ∧
        (devSubmit 0).port[(16 : Port)].busy = false ∧ (devSubmit 0).live[(16 : Port)] = true ∧
        (devSubmit 0).gate.locked = false) ∧
      (plan (pinSubmit .input 15 0).cfg 15 .isHigh = [.read 0x11] ∧ ¬ WrongPort 15 .isHigh ∧
        (pinSubmit .input 15 0).port[(15 : Port)].busy = false ∧ (pinSubmit .input 15 0).live[(15 : Port)] = true ∧
        (pinSubmit .input 15 0).gate.locked = false) := by
  simp only [WrongPort]; decide

/-- `RmwCommandRunsToResponse`, on `PD` and on the last pin port. -/
theorem witness_rmw_runs :
    (plan (devSubmit 0).cfg 16 (.modbit 0x10 7 true) = [.rmw 0x10 7 true] ∧ ¬ WrongPort 16 (.modbit 0x10 7 true) ∧
        ¬ IsModeCommand (.modbit 0x10 7 true) ∧ ¬ WrongMode (devSubmit 0) 16 (.modbit 0x10 7 true) ∧
        (devSubmit 0).port[(16 : Port)].busy = false ∧ (devSubmit 0).live[(16 : Port)] = true ∧
        (devSubmit 0).gate.locked = false) ∧
      (plan (pinSubmit .output 15 0).cfg 15 .setHigh = [.rmw 0x11 7 true] ∧ ¬ WrongPort 15 .setHigh ∧
        ¬ IsModeCommand .setHigh ∧ ¬ WrongMode (pinSubmit .output 15 0) 15 .setHigh ∧
        (pinSubmit .output 15 0).port[(15 : Port)].busy = false ∧ (pinSubmit .output 15 0).live[(15 : Port)] = true) := by
  simp only [WrongPort, WrongMode, IsModeCommand]; decide

/-- `ModeCommandRunsToResponse`. -/
theorem witness_mode_runs :
    installs .intoInputPu = some .inputPullUp ∧ (pinSubmit .output 15 0).cfg.wf = true ∧
      (pinSubmit .output 15 0).port[pinPort 15].busy = false ∧ (pinSubmit .output 15 0).live[pinPort 15] = true ∧
      (pinSubmit .output 15 0).gate.locked = false ∧
      [0x01#8, 0xFF#8, 0x00#8].length = (modeSeqOf (pinSubmit .output 15 0).cfg .inputPullUp).length := by decide

/-- `LifecycleFrame`: each of the three commands answers a next state. -/
theorem witness_lifecycle_frame :
    (∃ s', exec (.new 0x3F) (atReset (envOf [.submit 16 (encode (.new 0x3F))] none)) = .next s') ∧
      (∃ s', exec .split (devSubmit (encode .split)) = .next s') ∧ (∃ s', exec .drop (devSubmit (encode .drop)) = .next s') :=
  ⟨⟨_, rfl⟩, ⟨_, rfl⟩, ⟨_, rfl⟩⟩

/-- `TransactionCommandFrame`: a write, a read that clears a status register, and a submission. -/
theorem witness_transaction_frame :
    (¬ IsLifecycle (.wrreg 0x0E 0xFF) ∧ ¬ IsModeCommand (.wrreg 0x0E 0xFF)) ∧
      (∃ s', exec (.wrreg 0x0E 0xFF) (atDevice (busyAt 0x480EFF 0 .wr none) (held 16) (envOf [.busWr 16 none] (some blank))) =
          .next s') ∧
      storedTo (atDevice (busyAt 0x480EFF 0 .wr none) (held 16) (envOf [.busWr 16 none] (some blank))) = some 0x0E ∧
      movingPort (atDevice (busyAt 0x480EFF 0 .wr none) (held 16) (envOf [.busWr 16 none] (some blank))) = some 16 ∧
      decode 0x480EFF = .ok (.wrreg 0x0E 0xFF) ∧ Memory.wf blank.reg = true ∧
      (∃ s', exec .irqStatus (atPins .input 15 (busyAt 0xF00000 0 .rd none) (held 15) (envOf [.busRd 15 none] (some blank))) =
          .next s') ∧
      storedTo (atPins .input 15 (busyAt 0xF00000 0 .rd none) (held 15) (envOf [.busRd 15 none] (some blank))) = some 0x19 ∧
      (∃ s', exec (.rdreg 0) (devSubmit (encode (.rdreg 0))) = .next s') :=
  ⟨⟨by simp [IsLifecycle], by simp [IsModeCommand]⟩, ⟨_, rfl⟩, by decide, by decide, by decide, by decide, ⟨_, rfl⟩,
    by decide, ⟨_, rfl⟩⟩

/-- `ModeCommandFrame`: the last write of a mode change. -/
theorem witness_mode_frame :
    IsModeCommand .intoOutput ∧ (pinWrite 0 0xA00000 1 0xFF .ok).cfg.wf = true ∧
      (pinWrite 0 0xA00000 1 0xFF .ok).env.target = none ∧ movingPort (pinWrite 0 0xA00000 1 0xFF .ok) = some 0 ∧
      decode (pinWrite 0 0xA00000 1 0xFF .ok).port[(0 : Port)].cw = .ok .intoOutput ∧
      ∃ s', exec .intoOutput (pinWrite 0 0xA00000 1 0xFF .ok) = .next s' :=
  ⟨by simp [IsModeCommand], by decide, by decide, by decide, by decide, _, rfl⟩

/-- `ResetAcceptsOnlyNew`: a word for each of its three cases. -/
theorem witness_reset_new :
    refCfg.wf = true ∧ (decode 0x087F00 = .ok (.new 0x7F) ∧ (0x7F : Byte).getLsbD 7 = false) ∧
      (decode 0x088000 = .ok (.new 0x80) ∧ (0x80 : Byte).getLsbD 7 = true) ∧
      ((0 : Port) ≠ 16) ∧ ∀ a, decode 0xD80000 ≠ .ok (.new a) :=
  ⟨by decide, by decide, by decide, by decide, fun a h => by
    rw [show decode 0xD80000 = .ok .isHigh by decide] at h; cases h⟩

/-- `StartMeetsInvariant`: a start under the reference configuration, with a target. -/
theorem witness_start : Start (atReset (envOf [.submit 16 0x083F00] (some blank))) :=
  ⟨refCfg, _, rfl, by decide, fun t h => by cases h; decide⟩

/-- Program A's first two commands and, on port 0, a command whose first acquisition is made: a reachable state with a port
in a transaction. -/
def startA : State :=
  atReset (envOf [.submit 16 0x083F00, .submit 16 0x100000, .submit 0 0xA00000, .acq 0, .busRd 0 none] (some blank))

/-- `ReachableStatesMeetTheRule`, `AtMostOneTransaction`: that state is reachable, and its port 0 is in phase `RD`. -/
theorem witness_reachable :
    Reachable (runOf 4 startA) ∧ (runOf 4 startA).port[(0 : Port)].busy = true ∧
      (runOf 4 startA).port[(0 : Port)].ph = .rd :=
  ⟨reachable_run 4 startA (runOf 4 startA) (.start _ ⟨refCfg, _, rfl, by decide, fun t h => by cases h; decide⟩) rfl,
    by decide, by decide⟩

/-- `StepKeepsInvariant`, `InvariantExcludesFaults`, `DeviceAddressIsImmutable`, `HistoryOnlyGrows`,
`PinPortReachesOnlyItsBit`: states that meet the invariant and step: a submission, a read and a write. -/
theorem witness_invariant_steps :
    (Inv (devSubmit 0x100000) ∧ (∃ s', step (devSubmit 0x100000) = .next s') ∧ (devSubmit 0x100000).refcnt ≠ 0) ∧
      (Inv (pinRead 15 0xC80000 0 (.ok 7)) ∧ ∃ s', step (pinRead 15 0xC80000 0 (.ok 7)) = .next s' ∧
        ∃ dev out r, Event.busWtr (pinPort 15) dev out r ∈ s'.hist.drop (pinRead 15 0xC80000 0 (.ok 7)).hist.length) ∧
      (Inv (pinWrite 15 0xC80000 0 7 .ok) ∧ ∃ s', step (pinWrite 15 0xC80000 0 7 .ok) = .next s' ∧
        ∃ dev out r, Event.busW (pinPort 15) dev out r ∈ s'.hist.drop (pinWrite 15 0xC80000 0 7 .ok).hist.length) :=
  ⟨⟨inv_of_check (by decide), ⟨_, rfl⟩, by decide⟩,
    ⟨inv_of_check (by decide), _, rfl, 0x3F, [0x11], .ok 7, by decide⟩,
    ⟨inv_of_check (by decide), _, rfl, 0x3F, [0x11, 0x87], .ok, by decide⟩⟩

/-- `ReadModifyWriteIsAdjacent`: the state after a read half, and two steps from it, one of another port. -/
theorem witness_adjacent :
    Inv { pinWrite 15 0xC80000 0 7 .ok with env := envOf [.submit 0 0xD80000, .busWr 15 none] (some blank) } ∧
      Owns { pinWrite 15 0xC80000 0 7 .ok with env := envOf [.submit 0 0xD80000, .busWr 15 none] (some blank) } 15 ∧
      currentOp (pinWrite 15 0xC80000 0 7 .ok) 15 = some (.rmw 0x11 7 true) ∧
      (pinWrite 15 0xC80000 0 7 .ok).port[(15 : Port)].ph = .wr ∧
      (pinWrite 15 0xC80000 0 7 .ok).port[(15 : Port)].tmp = some 7 ∧
      ∃ t, Host.Core.run Sys2Proof.core 2
        { pinWrite 15 0xC80000 0 7 .ok with env := envOf [.submit 0 0xD80000, .busWr 15 none] (some blank) } = .next t :=
  ⟨inv_of_check (by decide), by decide, by decide, by decide, by decide, _, rfl⟩

/-- `SomePortCanAlwaysStep`, `CommandsOnlyMoveForward`, `ResponseExactlyAtTheEnd`: a busy port whose move is next, with the
gate free, held by itself, and held by another; and a busy port while another one moves. -/
theorem witness_busy :
    (Inv (pinWait 0 0xC80000 0) ∧ (pinWait 0 0xC80000 0).port[(0 : Port)].busy = true ∧
        (∃ s', step (pinWait 0 0xC80000 0) = .next s') ∧ movingPort (pinWait 0 0xC80000 0) = some 0 ∧
        (pinWait 0 0xC80000 0).gate.locked = false) ∧
      (Inv (pinWrite 0 0xC80000 0 7 .ok) ∧ (∃ s', step (pinWrite 0 0xC80000 0 7 .ok) = .next s') ∧
        movingPort (pinWrite 0 0xC80000 0 7 .ok) = some 0 ∧ (pinWrite 0 0xC80000 0 7 .ok).port[(0 : Port)].ph ≠ .wait) ∧
      (Inv { pinWrite 0 0xC80000 0 7 .ok with
          env := envOf [.acq 1] none
          port := (pinWrite 0 0xC80000 0 7 .ok).port.set 1 (busyAt 0xD80000 0 .wait none) } ∧
        ∃ s', step { pinWrite 0 0xC80000 0 7 .ok with
          env := envOf [.acq 1] none
          port := (pinWrite 0 0xC80000 0 7 .ok).port.set 1 (busyAt 0xD80000 0 .wait none) } = .next s') :=
  ⟨⟨inv_of_check (by decide), by decide, ⟨_, rfl⟩, by decide, by decide⟩,
    ⟨inv_of_check (by decide), ⟨_, rfl⟩, by decide, by decide⟩, ⟨inv_of_check (by decide), _, rfl⟩⟩

/-- `UnspecifiedFieldsAreNeverRead`: two states that differ in every field that holds no meaningful value, and step; and a
pair whose step is refused. -/
theorem witness_same_meaning :
    (Inv (atReset (envOf [.submit 16 0x087F00] none)) ∧
        Inv { atReset (envOf [.submit 16 0x087F00] none) with
          devaddr := 0x55, gate := ⟨false, 7⟩, mode := Vector.replicate 16 .output,
          port := Vector.replicate 17 ⟨false, 0xFFFFFF, 2, .wr, none⟩ } ∧
        SameMeaning (atReset (envOf [.submit 16 0x087F00] none))
          { atReset (envOf [.submit 16 0x087F00] none) with
            devaddr := 0x55, gate := ⟨false, 7⟩, mode := Vector.replicate 16 .output,
            port := Vector.replicate 17 ⟨false, 0xFFFFFF, 2, .wr, none⟩ } ∧
        ∃ s', step (atReset (envOf [.submit 16 0x087F00] none)) = .next s') ∧
      (SameMeaning (atReset (envOf [.acq 0] none)) { atReset (envOf [.acq 0] none) with devaddr := 0x55 } ∧
        step (atReset (envOf [.acq 0] none)) = .refused .stepNotEnabled) :=
  ⟨⟨inv_of_check (by decide), inv_of_check (by decide),
    ⟨rfl, rfl, by decide, rfl, by decide, by decide, by decide, by decide, rfl, rfl, rfl⟩, ⟨_, rfl⟩⟩,
    ⟨rfl, rfl, by decide, rfl, by decide, by decide, by decide, by decide, rfl, rfl, rfl⟩, rfl⟩

/-- `HandlesAreNeverReissued`: a handle made live by `NEW`, and one made live by `SPLIT`. -/
theorem witness_handles :
    (Inv (atReset (envOf [.submit 16 0x087F00] none)) ∧ ∃ s', step (atReset (envOf [.submit 16 0x087F00] none)) = .next s' ∧
        (atReset (envOf [.submit 16 0x087F00] none)).live[(16 : Port)] = false ∧ s'.live[(16 : Port)] = true) ∧
      (Inv (devSubmit 0x100000) ∧ ∃ s', step (devSubmit 0x100000) = .next s' ∧
        (devSubmit 0x100000).live[(15 : Port)] = false ∧ s'.live[(15 : Port)] = true) :=
  ⟨⟨inv_of_check (by decide), _, rfl, by decide, by decide⟩, ⟨inv_of_check (by decide), _, rfl, by decide, by decide⟩⟩

/-- `TagChangesOnlyByItsOwnCommand`: the last write of a mode change. -/
theorem witness_tag_changes :
    Inv (pinWrite 0 0x880000 2 0xFF .ok) ∧ (pinWrite 0 0x880000 2 0xFF .ok).live[pinPort 0] = true ∧
      ∃ s', step (pinWrite 0 0x880000 2 0xFF .ok) = .next s' ∧ s'.mode[(0 : Pin)] ≠ (pinWrite 0 0x880000 2 0xFF .ok).mode[(0 : Pin)] :=
  ⟨inv_of_check (by decide), by decide, _, rfl, by decide⟩

/-- `ErrorsChangeNothingElse`: a mode error at SUBMIT, and a bus error of a write half. -/
theorem witness_errors :
    (Inv (pinSubmit .input 0 0xC80000) ∧ ∃ s', step (pinSubmit .input 0 0xC80000) = .next s' ∧
        s'.hist.getLast? = some (.resp 0 0xC80000 (responseWord .modeError 0)) ∧
        (pinSubmit .input 0 0xC80000).hist.length < s'.hist.length) ∧
      (Inv (pinWrite 0 0xC80000 0 7 (.err 6)) ∧ ∃ s', step (pinWrite 0 0xC80000 0 7 (.err 6)) = .next s' ∧
        s'.hist.getLast? = some (.resp 0 0xC80000 (responseWord .busError 6)) ∧
        (pinWrite 0 0xC80000 0 7 (.err 6)).hist.length < s'.hist.length) :=
  ⟨⟨inv_of_check (by decide), _, rfl, by decide, by decide⟩, ⟨inv_of_check (by decide), _, rfl, by decide, by decide⟩⟩

/-- `LastDropEndsTheLifetime`: pin 2 is the last handle (2.9). -/
theorem witness_last_drop :
    Inv (atLastPin (envOf [.submit 2 (encode .drop), .submit 16 (encode (.new 0x70))] none)) ∧
      (atLastPin (envOf [] none)).refcnt = 1 ∧ (atLastPin (envOf [] none)).live[(2 : Port)] = true ∧
      (atLastPin (envOf [] none)).port[(2 : Port)].busy = false ∧ (0x70 : Byte).getLsbD 7 = false :=
  ⟨inv_of_check (by decide), by decide, by decide, by decide, by decide⟩

/-- `LifeIsExhaustiveAndExclusive`: a state for each value of `LIFE`. -/
theorem witness_life :
    (Inv (atReset (envOf [] none)) ∧ life (atReset (envOf [] none)) = .empty) ∧
      (Inv (devSubmit 0) ∧ life (devSubmit 0) = .device) ∧
      (Inv (pinSubmit .input 0 0) ∧ life (pinSubmit .input 0 0) = .split ∧ Quiescent (pinSubmit .input 0 0)) :=
  ⟨⟨inv_of_check (by decide), by decide⟩, ⟨inv_of_check (by decide), by decide⟩,
    ⟨inv_of_check (by decide), by decide, by unfold Quiescent; decide⟩⟩

/-- `MergeReplacesOneBit`, `RegisterMapIsInjective`: indices at the ends of their ranges. -/
theorem witness_merge_regmap :
    (7 : Nat) < 8 ∧ (0 : BitVec 3) ≠ 7 ∧ refCfg.wf = true ∧ Family.dir ≠ .data ∧ bank 7 ≠ bank 8 := by decide

/-- `TargetAnswersAsTheRule`: a failing ordinal, another device's address, a data register, a status register, and a
register that is neither. -/
theorem witness_target :
    refCfg.wf = true ∧ Memory.wf blank.reg = true ∧ (target [] 0 [(1, 5)]).fail.lookup 1 = some 5 ∧
      blank.fail.lookup 1 = none ∧ (0x70 : DevAddr) ≠ blank.dev ∧ (0x3F : DevAddr) = blank.dev ∧
      (0x11 : Byte) = addrOf refCfg .data .high ∧ (0x18 : Byte) = addrOf refCfg .intStatus .low ∧
      ∀ k ∈ [Bank.low, Bank.high], (0x0E : Byte) ≠ addrOf refCfg .data k ∧ (0x0E : Byte) ≠ addrOf refCfg .intStatus k := by
  decide

/-- `TargetEventsAsTheRule`: an armed and an unarmed pin; each event as the next move, with a port in a transaction. -/
theorem witness_target_events :
    Memory.wf (target [(0x12, 0xF7)] 0 []).reg = true ∧
      (targetReg (target [(0x12, 0xF7)] 0 []) (addrOf refCfg .intMask (bank 3))).getLsbD 3 = refCfg.irqArmed ∧
      (targetReg (target [(0x12, 0xF7)] 0 []) (addrOf refCfg .intMask (bank 4))).getLsbD 4 ≠ refCfg.irqArmed ∧
      ∀ m ∈ [Move.level 15 true, .event 15],
        (atPins .output 0 (busyAt 0xC80000 0 .rd none) (held 0) (envOf [m] (some blank))).env.moves = [m] ∧
          (atPins .output 0 (busyAt 0xC80000 0 .rd none) (held 0) (envOf [m] (some blank))).env.target = some blank := by
  decide

/-- Program B: pin 0 and pin 1 wait with read-modify-writes of one register. -/
def programB : State :=
  { atPins .unconfigured 0 (busyAt 0xA00000 0 .wait none) free (envOf [] (some blank)) with
    port := ((Vector.replicate 17 PortState.reset).set 0 (busyAt 0xA00000 0 .wait none)).set 1
      (busyAt 0xA80000 0 .wait none) }

/-- `NoUpdateIsLost`. -/
theorem witness_no_update_lost :
    Inv programB ∧ (0 : Port) ≠ 1 ∧ (0 : BitVec 3) ≠ 1 ∧ programB.port[(0 : Port)].busy = true ∧
      programB.port[(1 : Port)].busy = true ∧ programB.gate.locked = false ∧
      currentOp programB 0 = some (.rmw 0x0A 0 false) ∧ currentOp programB 1 = some (.rmw 0x0A 1 true) ∧
      programB.env.target = some blank ∧ blank.dev = programB.devaddr ∧ blank.fail = [] ∧
      ∀ k ∈ [Bank.low, Bank.high], (0x0A : Byte) ≠ addrOf programB.cfg .data k ∧ (0x0A : Byte) ≠ addrOf programB.cfg .intStatus k :=
  ⟨inv_of_check (by decide), by decide, by decide, by decide, by decide, by decide, by decide, by decide, by decide,
    by decide, by decide, by decide⟩

/-- `OutputRoundTrip`, `SecondStatusReadIsClear`: E1's pin 9 as an output, and two pins of one bank. -/
theorem witness_round_trip :
    (Inv (atPins .output 9 idle free (envOf [] (some (target [(0x0F, 0xFD)] 0 [])))) ∧
        (atPins .output 9 idle free (envOf [] none)).live[pinPort 9] = true ∧
        (atPins .output 9 idle free (envOf [] none)).port[pinPort 9].busy = false ∧
        (atPins .output 9 idle free (envOf [] none)).mode[(9 : Pin)] = .output ∧
        (target [(0x0F, 0xFD)] 0 []).dev = (atPins .output 9 idle free (envOf [] none)).devaddr ∧
        (targetReg (target [(0x0F, 0xFD)] 0 []) (addrOf refCfg .dir (bank 9))).getLsbD 1 = refCfg.dirOut) ∧
      (Inv (atPins .input 3 idle free (envOf [] (some (target [(0x18, 0x09)] 0 [])))) ∧ bank 3 = bank 0 ∧
        (atPins .input 3 idle free (envOf [] none)).live[pinPort 0] = true ∧
        (atPins .input 3 idle free (envOf [] none)).port[pinPort 0].busy = false ∧
        (target [(0x18, 0x09)] 0 []).fail = []) :=
  ⟨⟨inv_of_check (by decide), by decide, by decide, by decide, by decide, by decide⟩,
    ⟨inv_of_check (by decide), by decide, by decide, by decide, by decide⟩⟩

/-- `AnswersComeFromTheEnvironment`: a target attached, and none; a change of the chip as the next move, at the last
register address, and each of the environment's moves where no target is attached. -/
theorem witness_answers :
    ((atReset (envOf [.poke 0xFF 0xA5] (some blank))).env.target = some blank ∧ Memory.wf blank.reg = true ∧
        (atReset (envOf [.poke 0xFF 0xA5] (some blank))).env.moves = [.poke 0xFF 0xA5]) ∧
      ∀ m ∈ [Move.level 0 false, .event 0, .poke 0x00 0x00],
        (atReset (envOf [m] none)).env.target = none ∧ (atReset (envOf [m] none)).env.moves = [m] := by decide

end Sys2Proof.Tests
end

section
/-! The environment's part of a step: who answers a transfer (R49; logs 13 and 20), and what the moves that run no command
do to the attached target (R12 (c), R64; log 21). -/

namespace Sys2Proof.Machine

open Sys2Proof.Claims

/-! ### Who answers a transfer -/

@[simp] theorem readReply_some (s : State) (a : Byte) (r : ReadAnswer) :
    readReply s a (some r) = (r, s.env.target) := rfl

@[simp] theorem writeReply_some (s : State) (a v : Byte) (r : WriteAnswer) :
    writeReply s a v (some r) = (r, s.env.target) := rfl

theorem readReply_of_attached {s : State} {t : Target} (ht : s.env.target = some t) (a : Byte) :
    readReply s a none = ((targetRead s.cfg t (s.env.transfers + 1) s.devaddr a).1,
      some (targetRead s.cfg t (s.env.transfers + 1) s.devaddr a).2) := by
  simp [readReply, nextTransfer, ht]

theorem writeReply_of_attached {s : State} {t : Target} (ht : s.env.target = some t) (a v : Byte) :
    writeReply s a v none = ((targetWrite t (s.env.transfers + 1) s.devaddr a v).1,
      some (targetWrite t (s.env.transfers + 1) s.devaddr a v).2) := by
  simp [writeReply, nextTransfer, ht]

theorem readReply_of_unattached {s : State} (ht : s.env.target = none) (a : Byte) :
    readReply s a none = (Config.readAnswer (s.env.transfers + 1), none) := by
  simp [readReply, nextTransfer, ht]

theorem writeReply_of_unattached {s : State} (ht : s.env.target = none) (a v : Byte) :
    writeReply s a v none = (Config.writeAnswer (s.env.transfers + 1), none) := by
  simp [writeReply, nextTransfer, ht]

/-! ### The moves that change the target -/

theorem step_of_fetch_none {s : State} (hf : fetch s = none) : step s = environmentStep s := by
  simp [step, hf]

/-- RT's `LEVEL` as the next move changes the target, if one is attached, and nothing else (R64). -/
theorem step_of_level {s : State} {q : Pin} {v : Bool} {ms : List Move} (hm : s.env.moves = .level q v :: ms) :
    step s = .next (withMoves (withTarget s (s.env.target.map fun t => targetLevel t q v)) ms) := by
  rw [step_of_fetch_none (by simp [fetch, hm])]
  simp [environmentStep, hm, changeTarget_popMove hm]

/-- RT's `EVENT` as the next move changes the target, if one is attached, and nothing else (R64). -/
theorem step_of_event {s : State} {q : Pin} {ms : List Move} (hm : s.env.moves = .event q :: ms) :
    step s = .next (withMoves (withTarget s (s.env.target.map fun t => targetEvent s.cfg t q)) ms) := by
  rw [step_of_fetch_none (by simp [fetch, hm])]
  simp [environmentStep, hm, changeTarget_popMove hm]

/-- A change of the chip as the next move changes the target, if one is attached, and nothing else (R12 (c)). -/
theorem step_of_poke {s : State} {a v : Byte} {ms : List Move} (hm : s.env.moves = .poke a v :: ms) :
    step s = .next (withMoves (withTarget s (s.env.target.map fun t => targetSetReg t a v)) ms) := by
  rw [step_of_fetch_none (by simp [fetch, hm])]
  simp [environmentStep, hm, changeTarget_popMove hm]

/-- Where no target is attached, a change of the target is none (log 21). -/
theorem withTarget_map_of_unattached {s : State} (ht : s.env.target = none) (f : Target → Target) :
    withTarget s (s.env.target.map f) = s := by
  calc withTarget s (s.env.target.map f) = withTarget s s.env.target := by simp [ht]
    _ = s := rfl

/-- A change of the chip writes one register of the attached target (R12 (c)). -/
theorem step_poke_writes_one_register {s : State} {t : Target} {a v : Byte} {ms : List Move}
    (ht : s.env.target = some t) (hwf : Memory.wf t.reg = true) (hm : s.env.moves = .poke a v :: ms) :
    ∃ u, step s = .next (withMoves (withTarget s (some u)) ms) ∧ u = { t with reg := u.reg } ∧ targetReg u a = v ∧
      ∀ x, x ≠ a → targetReg u x = targetReg t x := by
  refine ⟨targetSetReg t a v, ?_, rfl, targetReg_targetSetReg_self t a v hwf,
    fun x hx => targetReg_targetSetReg_ne t a x v hwf hx⟩
  rw [step_of_poke hm, ht, Option.map_some]

/-- The environment's moves that run no command only leave the list where no target is attached (log 21). -/
theorem step_of_environment_move_unattached {s : State} {ms : List Move} (ht : s.env.target = none)
    (hm : (∃ q v, s.env.moves = .level q v :: ms) ∨ (∃ q, s.env.moves = .event q :: ms) ∨
      ∃ a v, s.env.moves = .poke a v :: ms) :
    step s = .next (withMoves s ms) := by
  obtain ⟨q, v, hm⟩ | ⟨q, hm⟩ | ⟨a, v, hm⟩ := hm
  · rw [step_of_level hm, withTarget_map_of_unattached ht]
  · rw [step_of_event hm, withTarget_map_of_unattached ht]
  · rw [step_of_poke hm, withTarget_map_of_unattached ht]

/-- Settles O60: each source of an answer by its own equation of `readReply` and `writeReply`, and each of the environment's
moves by its step as a change of the attached target. -/
theorem answersComeFromTheEnvironment : Obligations.AnswersComeFromTheEnvironment := by
  unfold Obligations.AnswersComeFromTheEnvironment
  constructor
  · intro s a v
    exact ⟨readReply_some s a, writeReply_some s a v,
      fun _ ht => ⟨readReply_of_attached ht a, writeReply_of_attached ht a v⟩,
      fun ht => ⟨readReply_of_unattached ht a, writeReply_of_unattached ht a v⟩⟩
  · intro s ms
    exact ⟨fun _ _ _ ht hwf hm => step_poke_writes_one_register ht hwf hm,
      fun ht hm => step_of_environment_move_unattached ht hm⟩

end Sys2Proof.Machine
end

section
/-! What one step does, in the seven kinds the state's claims tell apart (R100 to R105): the command of the step is named,
and the five ways a transfer can end are drawn together over the state right after the transfer. -/

namespace Sys2Proof.Machine

open Sys2Proof.Claims

/-! ### The command of a step -/

theorem decode_submitted {s : State} {p q : Port} {cw w : CmdWord} {ms : List Move} {i : Instr}
    (hf : fetch s = some (p, cw)) (hd : decode cw = .ok i) (hm : s.env.moves = .submit q w :: ms) :
    decode w = .ok i := by
  rcases fetch_cases hf with ⟨_, hm', -⟩ | ⟨-, -, ⟨_, hm'⟩ | ⟨_, _, hm'⟩ | ⟨_, _, hm'⟩⟩ <;> rw [hm] at hm' <;> cases hm'
  exact hd

theorem decode_latched {s : State} {p q : Port} {cw : CmdWord} {i : Instr} (hf : fetch s = some (p, cw))
    (hd : decode cw = .ok i) (hq : movingPort s = some q) (hb : (portAt s q).busy = true) :
    decode (portAt s q).cw = .ok i := by
  rcases fetch_cases hf with ⟨_, hm, hi⟩ | ⟨-, rfl, ⟨_, hm⟩ | ⟨_, _, hm⟩ | ⟨_, _, hm⟩⟩ <;>
    simp only [movingPort, hm, Option.some.injEq] at hq <;> subst hq
  · rw [hi] at hb; cases hb
  all_goals exact hd

theorem movingPort_submit {s : State} {p : Port} {cw : CmdWord} {ms : List Move}
    (hm : s.env.moves = .submit p cw :: ms) : movingPort s = some p := by simp [movingPort, hm]
theorem movingPort_acq {s : State} {p : Port} {ms : List Move} (hm : s.env.moves = .acq p :: ms) :
    movingPort s = some p := by simp [movingPort, hm]
theorem movingPort_busRd {s : State} {p : Port} {ans : Option ReadAnswer} {ms : List Move}
    (hm : s.env.moves = .busRd p ans :: ms) : movingPort s = some p := by simp [movingPort, hm]
theorem movingPort_busWr {s : State} {p : Port} {ans : Option WriteAnswer} {ms : List Move}
    (hm : s.env.moves = .busWr p ans :: ms) : movingPort s = some p := by simp [movingPort, hm]

/-- A command that has micro-operations is accepted only where its handle is live (R100 case 4). -/
theorem isLive_of_alive {i : Instr} {c : Cfg} {s : State} {p : Port} (hne : plan c p i ≠ [])
    (h : (commandOf i).alive s p = true) : isLive s p = true := by
  cases i with
  | new a => exact absurd rfl hne
  | _ => exact h

/-! ### The effect of a command on completion (R104) -/

@[simp] theorem effect_gate (i : Instr) (s : State) (p : Port) : ((commandOf i).effect s p).gate = s.gate := by
  cases i <;> simp [commandOf, noEffect]
@[simp] theorem effect_port (i : Instr) (s : State) (p : Port) : ((commandOf i).effect s p).port = s.port := by
  cases i <;> simp [commandOf, noEffect]
@[simp] theorem effect_hist (i : Instr) (s : State) (p : Port) : ((commandOf i).effect s p).hist = s.hist := by
  cases i <;> simp [commandOf, noEffect]
@[simp] theorem effect_cfg (i : Instr) (s : State) (p : Port) : ((commandOf i).effect s p).cfg = s.cfg := by
  cases i <;> simp [commandOf, noEffect]
@[simp] theorem effect_env (i : Instr) (s : State) (p : Port) : ((commandOf i).effect s p).env = s.env := by
  cases i <;> simp [commandOf, noEffect]

/-- A command that is none of the lifecycle installs its tag, if it has one, and does nothing else (R104, R115). -/
theorem effect_of_not_lifecycle {i : Instr} (hn : ¬ IsLifecycle i) (s : State) (p : Port) :
    (commandOf i).effect s p = (installs i).elim s (setMode s p) := by
  cases i with
  | new a => exact absurd trivial hn
  | split => exact absurd trivial hn
  | drop => exact absurd trivial hn
  | _ => rfl

/-! ### A transfer and how it ends -/

/-- `u` is the state right after port `p` made one transfer in `s` (R47, R48). -/
structure Transferred (s : State) (p : Port) (u : State) : Prop where
  live      : u.live = s.live
  refcnt    : u.refcnt = s.refcnt
  devaddr   : u.devaddr = s.devaddr
  gate      : u.gate = s.gate
  mode      : u.mode = s.mode
  port      : u.port = s.port
  cfg       : u.cfg = s.cfg
  event     : ∃ e, u.hist = s.hist ++ [e] ∧ isBus e = true ∧ eventPort e = p
  transfers : u.env.transfers = s.env.transfers + 1
  target_wf : (∀ t, s.env.target = some t → Memory.wf t.reg = true) →
                ∀ t, u.env.target = some t → Memory.wf t.reg = true

theorem transferred_afterRead (s : State) (p : Port) (a : Byte) (ans : Option ReadAnswer) :
    Transferred s p (afterRead (popMove s) p a ans) :=
  ⟨rfl, rfl, rfl, rfl, rfl, rfl, rfl, ⟨_, rfl, rfl, rfl⟩, rfl, readReply_wf (popMove s) a ans⟩

theorem transferred_afterWrite (s : State) (p : Port) (a w : Byte) (ans : Option WriteAnswer) :
    Transferred s p (afterWrite (popMove s) p a w ans) :=
  ⟨rfl, rfl, rfl, rfl, rfl, rfl, rfl, ⟨_, rfl, rfl, rfl⟩, rfl, writeReply_wf (popMove s) a w ans⟩

/-- What follows a transfer of port `p` that left the state `u`: the error exit, the read half's latch, or ADVANCE with the
gate released (R102, R103). -/
inductive TransferEnd (c : Command) (p : Port) (u s' : State) : Prop where
  | failed (e : ErrCode) (hs : s' = raiseError u p (portAt u p).cw (.busError e))
  | latched (a : Byte) (j : BitVec 3) (v : Bool) (b : Byte)
      (hop : (c.plan u.cfg p)[(portAt u p).k.val]? = some (.rmw a j v)) (hs : s' = latchRead u p b)
  | advanced (v : Byte) (hs : advance c p v (releaseGate u) = .next s')

/-! ### The seven kinds of a step -/

/-- What a step does, if it answers a next state. -/
inductive StepKind (s s' : State) : Prop where
  /-- No command moves: no move is left, or the environment changes the target. -/
  | environment (same : SameBlock s s') (cfg : s'.cfg = s.cfg)
      (transfers : s'.env.transfers = s.env.transfers)
      (wf : (∀ t, s.env.target = some t → Memory.wf t.reg = true) →
              ∀ t, s'.env.target = some t → Memory.wf t.reg = true)
  /-- SUBMIT answered with an error (R100 cases 1 to 6). -/
  | rejected (p : Port) (cw : CmdWord) (st : Status) (v : Byte) (mp : movingPort s = some p)
      (idle : (portAt s p).busy = false) (hs : s' = respond (popMove s) p cw st v)
  /-- SUBMIT of a command with an empty plan (R100 case 7). -/
  | completed (i : Instr) (p : Port) (cw : CmdWord) (mp : movingPort s = some p) (idle : (portAt s p).busy = false)
      (cls : classAdmits (portClass i) p = true) (alive : (commandOf i).alive (popMove s) p = true)
      (nil : plan s.cfg p i = []) (hs : s' = respond ((commandOf i).effect (popMove s) p) p cw .ok 0)
  /-- SUBMIT of a command that is latched (R100 case 7). -/
  | accepted (i : Instr) (p : Port) (cw : CmdWord) (mp : movingPort s = some p) (idle : (portAt s p).busy = false)
      (hd : decode cw = .ok i) (cls : classAdmits (portClass i) p = true) (live : isLive s p = true)
      (ne : plan s.cfg p i ≠ []) (hs : s' = latchCommand (popMove s) p cw)
  /-- ACQ with the gate held (R101). -/
  | waited (p : Port) (mp : movingPort s = some p) (busy : (portAt s p).busy = true) (hs : s' = popMove s)
  /-- ACQ with the gate free (R101). -/
  | acquired (i : Instr) (p : Port) (op : MicroOp) (mp : movingPort s = some p) (busy : (portAt s p).busy = true)
      (ph : (portAt s p).ph = .wait) (hd : decode (portAt s p).cw = .ok i) (free : s.gate.locked = false)
      (hop : (plan s.cfg p i)[(portAt s p).k.val]? = some op)
      (hs : s' = setPort (lockGate (popMove s) p) p { portAt s p with ph := firstPhase op })
  /-- BUS_RD and BUS_WR (R102, R103). -/
  | transferred (i : Instr) (p : Port) (op : MicroOp) (u : State) (mp : movingPort s = some p)
      (busy : (portAt s p).busy = true) (ph : (portAt s p).ph ≠ .wait) (hd : decode (portAt s p).cw = .ok i)
      (owns : s.gate.locked = true ∧ s.gate.owner = p) (hop : (plan s.cfg p i)[(portAt s p).k.val]? = some op)
      (tr : Transferred s p u) (fin : TransferEnd (commandOf i) p u s')

theorem stepKind_of_transfer {s s' u : State} {i : Instr} {p q : Port} {cw : CmdWord} {op : MicroOp} {ph : Phase}
    (hf : fetch s = some (q, cw)) (hd : decode cw = .ok i) (mp : movingPort s = some p)
    (may : mayTransfer s p ph = true) (hph : ph ≠ .wait)
    (hop : ((commandOf i).plan s.cfg p)[(portAt s p).k.val]? = some op) (tr : Transferred s p u)
    (fin : TransferEnd (commandOf i) p u s') : StepKind s s' := by
  obtain ⟨busy, rfl, owns⟩ := mayTransfer_iff.1 may
  rw [commandOf_plan] at hop
  exact .transferred i p op u mp busy hph (decode_latched hf hd mp busy) owns hop tr fin

theorem stepKind_of_command {s s' : State} {i : Instr} {q : Port} {cw : CmdWord} (hf : fetch s = some (q, cw))
    (hd : decode cw = .ok i) (move : CommandMove (commandOf i) s s') : StepKind s s' := by
  cases move with
  | rejected p w k ms hm idle why hs =>
    have mp := movingPort_submit hm
    cases k with
    | busError e =>
      obtain hk | ⟨-, -, hk⟩ := why
      · cases hk
      · exact absurd hk (check_ne_busError i _ p e)
    | modeError => exact .rejected p w _ _ mp idle hs
    | initError => exact .rejected p w _ _ mp idle hs
    | illegal => exact .rejected p w _ _ mp idle hs
  | done p w ms hm idle cls alive check nil hs =>
    rw [commandOf_cls] at cls
    rw [commandOf_plan] at nil
    exact .completed i p w (movingPort_submit hm) idle cls alive nil hs
  | accepted p w ms hm idle cls alive check ne hs =>
    rw [commandOf_cls] at cls
    rw [commandOf_plan] at ne
    have live : isLive s p = true := isLive_of_alive (s := popMove s) ne alive
    exact .accepted i p w (movingPort_submit hm) idle (decode_submitted hf hd hm) cls live ne hs
  | waited p ms hm busy ph held hs => exact .waited p (movingPort_acq hm) busy hs
  | acquired p op ms hm busy ph free hop hs =>
    have mp := movingPort_acq hm
    rw [commandOf_plan] at hop
    exact .acquired i p op mp busy ph (decode_latched hf hd mp busy) free hop hs
  | readFailed p ans op a e ms hm may hop reads reply hs =>
    exact stepKind_of_transfer hf hd (movingPort_busRd hm) may (by decide) hop (transferred_afterRead s p a ans)
      (.failed e hs)
  | readLatched p ans a j v b ms hm may hop reply hs =>
    exact stepKind_of_transfer hf hd (movingPort_busRd hm) may (by decide) hop (transferred_afterRead s p a ans)
      (.latched a j v b hop hs)
  | readDone p ans a b ms hm may hop reply hs =>
    exact stepKind_of_transfer hf hd (movingPort_busRd hm) may (by decide) hop (transferred_afterRead s p a ans)
      (.advanced _ hs)
  | writeFailed p ans op a w e ms hm may hop writes reply hs =>
    exact stepKind_of_transfer hf hd (movingPort_busWr hm) may (by decide) hop (transferred_afterWrite s p a w ans)
      (.failed e hs)
  | writeDone p ans op a w ms hm may hop writes reply hs =>
    exact stepKind_of_transfer hf hd (movingPort_busWr hm) may (by decide) hop (transferred_afterWrite s p a w ans)
      (.advanced _ hs)

/-- If a step answers a next state, it is of one of the seven kinds. -/
theorem stepKind_of_step {s s' : State} (h : step s = .next s') : StepKind s s' := by
  cases step_cases h with
  | command i p cw hf hd move => exact stepKind_of_command hf hd move
  | notACommand p cw ms e hm idle hd hs => exact .rejected p cw _ _ (movingPort_submit hm) idle hs
  | none hm hs => exact .environment (hs ▸ ⟨rfl, rfl, rfl, rfl, rfl, rfl, rfl⟩) (hs ▸ rfl) (hs ▸ rfl) (hs ▸ id)
  | target f hs wf =>
    subst hs
    refine .environment ⟨rfl, rfl, rfl, rfl, rfl, rfl, rfl⟩ rfl rfl fun h t ht => ?_
    obtain ⟨u, hu, rfl⟩ := Option.map_eq_some_iff.1 ht
    exact wf u (h u hu)

end Sys2Proof.Machine
end

section
/-! The invariant of every reachable state (R30): each of the seven kinds of a step keeps it. -/

namespace Sys2Proof.Machine

open Sys2Proof.Claims

/-- The micro-operation of a port whose record was just written. -/
theorem currentOp_setPort_self {s : State} {p : Port} {r : PortState} {i : Instr} (hd : decode r.cw = .ok i) :
    currentOp (setPort s p r) p = (plan s.cfg p i)[r.k.val]? := by
  simp [currentOp, hd]

/-- A micro-operation that is about to start, with no byte latched, fits the phase in which it starts (R101). -/
theorem phaseFits_firstPhase (op : MicroOp) : phaseFits (firstPhase op) (some op) none = true := by
  cases op <;> rfl

theorem firstPhase_ne_wait (op : MicroOp) : firstPhase op ≠ .wait := by
  cases op <;> simp [firstPhase]

theorem inv_popMove {s : State} (h : Inv s) : Inv (popMove s) :=
  inv_same h rfl rfl rfl h.target_wf rfl rfl

theorem inv_withMoves {s : State} (h : Inv s) (ms : List Move) : Inv (withMoves s ms) :=
  inv_same h rfl rfl rfl h.target_wf rfl rfl

theorem inv_transferred {s u : State} {p : Port} (h : Inv s) (tr : Transferred s p u) : Inv u :=
  inv_same h tr.live tr.refcnt tr.cfg (tr.target_wf h.target_wf) tr.port tr.gate

/-- The record `r` of a busy port and a gate `g` that moves with the port's transaction keep the invariant. -/
theorem inv_setPort {s : State} {p : Port} {r : PortState} {g : Gate} {i : Instr} (h : Inv s)
    (live : isLive s p = true) (busy : r.busy = true) (hd : decode r.cw = .ok i)
    (cls : classAdmits (portClass i) p = true) (fits : phaseFits r.ph (plan s.cfg p i)[r.k.val]? r.tmp = true)
    (hg : (g = s.gate ∧ (r.ph ≠ .wait ↔ inTransaction s p)) ∨
      (s.gate.locked = false ∧ g = ⟨true, p⟩ ∧ r.ph ≠ .wait)) :
    Inv (setPort { s with gate := g } p r) := by
  have ht : inTransaction (setPort { s with gate := g } p r) p ↔ r.ph ≠ .wait := by simp [inTransaction, busy]
  refine inv_frame p h rfl rfl rfl h.target_wf (fun x hx => portAt_setPort_ne _ p x r hx) (fun _ => ⟨live, ?_, ?_⟩)
    (fun hb => ?_) ?_
  · rw [currentOp_setPort_self hd, portAt_setPort_self]
    exact fits
  · intro j hj
    rw [portAt_setPort_self, hd] at hj
    cases hj
    exact cls
  · rw [portAt_setPort_self, busy] at hb
    cases hb
  · rw [ht]
    exact hg.imp_right .inl

/-- SUBMIT of a command that is accepted keeps the invariant: the port waits for its first micro-operation (R100 case 7). -/
theorem inv_latchCommand {s : State} {p : Port} {cw : CmdWord} {i : Instr} (h : Inv s)
    (idle : (portAt s p).busy = false) (hd : decode cw = .ok i) (cls : classAdmits (portClass i) p = true)
    (live : isLive s p = true) (ne : plan s.cfg p i ≠ []) : Inv (latchCommand s p cw) := by
  obtain ⟨op, ops, hp⟩ := List.exists_cons_of_ne_nil ne
  refine inv_setPort (g := s.gate) h live rfl hd cls ?_ (.inl ⟨rfl, ?_⟩)
  · simp [hp, h.idle_no_tmp p idle, phaseFits]
  · simp [inTransaction, idle]

/-- ACQ of the free gate keeps the invariant: the port starts its micro-operation and owns the gate (R101). -/
theorem inv_acquire {s : State} {p : Port} {i : Instr} {op : MicroOp} (h : Inv s) (busy : (portAt s p).busy = true)
    (ph : (portAt s p).ph = .wait) (hd : decode (portAt s p).cw = .ok i) (free : s.gate.locked = false)
    (hop : (plan s.cfg p i)[(portAt s p).k.val]? = some op) :
    Inv (setPort (lockGate s p) p { portAt s p with ph := firstPhase op }) := by
  have fits := h.phase_fits p busy
  rw [ph] at fits
  refine inv_setPort (g := ⟨true, p⟩) h (h.busy_live p busy) busy hd (h.latch_class p i busy hd) ?_
    (.inr ⟨free, rfl, firstPhase_ne_wait op⟩)
  rw [hop, phaseFits_wait fits]
  exact phaseFits_firstPhase op

/-- The latch of a read half keeps the invariant: the port still owns the gate and holds the byte (R102 (b)). -/
theorem inv_latchRead {s : State} {p : Port} {i : Instr} {a b : Byte} {j : BitVec 3} {v : Bool} (h : Inv s)
    (busy : (portAt s p).busy = true) (ph : (portAt s p).ph ≠ .wait) (hd : decode (portAt s p).cw = .ok i)
    (hop : (plan s.cfg p i)[(portAt s p).k.val]? = some (.rmw a j v)) : Inv (latchRead s p b) := by
  refine inv_setPort (g := s.gate) h (h.busy_live p busy) busy hd (h.latch_class p i busy hd) ?_ (.inl ⟨rfl, ?_⟩)
  · rw [hop]
    rfl
  · simp [inTransaction, busy, ph]

/-- However a transfer ends, it keeps the invariant (R102, R103). -/
theorem inv_transferEnd {u s' : State} {p : Port} {i : Instr} {op : MicroOp} (h : Inv u)
    (busy : (portAt u p).busy = true) (ph : (portAt u p).ph ≠ .wait) (hd : decode (portAt u p).cw = .ok i)
    (owns : u.gate.locked = true ∧ u.gate.owner = p) (hop : (plan u.cfg p i)[(portAt u p).k.val]? = some op)
    (fin : TransferEnd (commandOf i) p u s') : Inv s' := by
  cases fin with
  | failed e hs => exact hs ▸ inv_raise_busError h owns rfl rfl rfl rfl h.target_wf
  | latched a j v b hrmw hs =>
    rw [commandOf_plan] at hrmw
    exact hs ▸ inv_latchRead h busy ph hd hrmw
  | advanced v hs =>
    exact inv_advance (u := releaseGate u) h hd owns busy rfl rfl rfl rfl rfl h.target_wf (not_lifecycle_of_plan hop) hs

/-- Every step keeps the invariant. -/
theorem inv_step {s s' : State} (h : Inv s) (hs : step s = .next s') : Inv s' := by
  cases stepKind_of_step hs with
  | environment same cfg transfers wf =>
    obtain ⟨live, refcnt, -, gate, -, port, -⟩ := same
    exact inv_same h live refcnt cfg (wf h.target_wf) port gate
  | rejected p cw st v mp idle hs => exact hs ▸ inv_same h rfl rfl rfl h.target_wf rfl rfl
  | completed i p cw mp idle cls alive nil hs =>
    have hi : IsLifecycle i := by
      obtain ⟨a, rfl⟩ | rfl | rfl := plan_eq_nil_lifecycle i s.cfg p h.cfg_wf cls nil <;> trivial
    exact hs ▸ inv_lifecycle (inv_popMove h) hi idle cls alive
  | accepted i p cw mp idle hd cls live ne hs =>
    exact hs ▸ inv_latchCommand (inv_popMove h) idle hd cls live ne
  | waited p mp busy hs => exact hs ▸ inv_popMove h
  | acquired i p op mp busy ph hd free hop hs => exact hs ▸ inv_acquire (inv_popMove h) busy ph hd free hop
  | transferred i p op u mp busy ph hd owns hop tr fin =>
    have hp : portAt u p = portAt s p := portAt_congr _ _ tr.port p
    rw [← tr.gate] at owns
    rw [← hp] at busy ph hd hop
    rw [← tr.cfg] at hop
    exact inv_transferEnd (inv_transferred h tr) busy ph hd owns hop fin

/-- Settles O36, by the seven kinds of a step. -/
theorem stepKeepsInvariant : Obligations.StepKeepsInvariant := by
  unfold Obligations.StepKeepsInvariant
  exact fun _ _ => inv_step

end Sys2Proof.Machine
end

section
/-! The step of each move as an equation, once per kind of move and port (R16, R23, R100 to R103; log 4). -/

namespace Sys2Proof.Machine

open Sys2Proof.Claims

theorem step_of_no_move {s : State} (hm : s.env.moves = []) : step s = .next s := by
  rw [step_of_fetch_none (by simp [fetch, hm])]
  simp [environmentStep, hm]

theorem step_of_submit_busy {s : State} {p : Port} {cw : CmdWord} {ms : List Move}
    (hm : s.env.moves = .submit p cw :: ms) (hb : (portAt s p).busy = true) :
    step s = .refused .submitWhileBusy := by
  rw [step_of_fetch_none (by simp [fetch_submit hm, hb])]
  simp [environmentStep, hm]

theorem step_of_acq_idle {s : State} {p : Port} {ms : List Move} (hm : s.env.moves = .acq p :: ms)
    (hb : (portAt s p).busy = false) : step s = .refused .stepNotEnabled := by
  rw [step_of_fetch_none (by simp [fetch_acq hm, hb])]
  simp [environmentStep, hm]

theorem step_of_busRd_idle {s : State} {p : Port} {ans : Option ReadAnswer} {ms : List Move}
    (hm : s.env.moves = .busRd p ans :: ms) (hb : (portAt s p).busy = false) :
    step s = .refused .stepNotEnabled := by
  rw [step_of_fetch_none (by simp [fetch_busRd hm, hb])]
  simp [environmentStep, hm]

theorem step_of_busWr_idle {s : State} {p : Port} {ans : Option WriteAnswer} {ms : List Move}
    (hm : s.env.moves = .busWr p ans :: ms) (hb : (portAt s p).busy = false) :
    step s = .refused .stepNotEnabled := by
  rw [step_of_fetch_none (by simp [fetch_busWr hm, hb])]
  simp [environmentStep, hm]

theorem step_of_acq {s : State} {p : Port} {ms : List Move} {i : Instr} (hm : s.env.moves = .acq p :: ms)
    (hb : (portAt s p).busy = true) (hd : decode (portAt s p).cw = .ok i) :
    step s = acquire (commandOf i) p (withMoves s ms) := by
  rw [step_of_fetch (by rw [fetch_acq hm, if_pos hb]) hd, exec_of_acq hm]

theorem step_of_busRd {s : State} {p : Port} {ans : Option ReadAnswer} {ms : List Move} {i : Instr}
    (hm : s.env.moves = .busRd p ans :: ms) (hb : (portAt s p).busy = true) (hd : decode (portAt s p).cw = .ok i) :
    step s = busRead (commandOf i) p ans (withMoves s ms) := by
  rw [step_of_fetch (by rw [fetch_busRd hm, if_pos hb]) hd, exec_of_busRd hm]

theorem step_of_busWr {s : State} {p : Port} {ans : Option WriteAnswer} {ms : List Move} {i : Instr}
    (hm : s.env.moves = .busWr p ans :: ms) (hb : (portAt s p).busy = true) (hd : decode (portAt s p).cw = .ok i) :
    step s = busWrite (commandOf i) p ans (withMoves s ms) := by
  rw [step_of_fetch (by rw [fetch_busWr hm, if_pos hb]) hd, exec_of_busWr hm]

/-- Settles O8, by the word that is fetched for each kind of move. -/
theorem stepRunsDecodedInstruction : Obligations.StepRunsDecodedInstruction := by
  unfold Obligations.StepRunsDecodedInstruction
  constructor
  · intro s p cw ms i hm idle hd
    have idle' : (portAt s p).busy = false := idle
    exact step_of_fetch (by rw [fetch_submit hm, idle']; rfl) hd
  · intro s p ms i hm busy hd
    have busy' : (portAt s p).busy = true := busy
    have hf : fetch s = some (p, (portAt s p).cw) := by
      obtain hm | ⟨r, hm⟩ | ⟨r, hm⟩ := hm
      · rw [fetch_acq hm, if_pos busy']
      · rw [fetch_busRd hm, if_pos busy']
      · rw [fetch_busWr hm, if_pos busy']
    exact step_of_fetch hf hd

end Sys2Proof.Machine
end

section
/-! Reset and reachable states: the values of R31, the invariant at every start and so of every reachable state (R30), and
what it says of the derived lifecycle (R29). -/

namespace Sys2Proof.Machine

open Sys2Proof.Claims

/-! ### Reset -/

theorem resetCfg_wf : resetCfg.wf = true := by
  unfold resetCfg
  split
  · assumption
  · decide

@[simp] theorem portAt_reset (p : Port) : portAt State.reset p = PortState.reset := by
  simp [portAt, State.reset]

@[simp] theorem isLive_reset (p : Port) : isLive State.reset p = false := by
  simp [isLive, State.reset]

/-- Settles O33: every handle and every port's record at reset is the one the model lists (R31). -/
theorem resetValuesOfTheSpec : Obligations.ResetValuesOfTheSpec := by
  unfold Obligations.ResetValuesOfTheSpec
  refine ⟨fun p => ⟨isLive_reset p, ?_, ?_⟩, rfl, rfl, rfl, rfl⟩
  · exact congrArg PortState.busy (portAt_reset p)
  · exact congrArg PortState.tmp (portAt_reset p)

theorem reset_refcnt_counts : State.reset.refcnt.toNat = liveCount State.reset := by decide

/-- A start has no live handle, every port idle and the gate free, and so meets the invariant. -/
theorem inv_of_start {s : State} (h : Start s) : Inv s := by
  obtain ⟨c, e, rfl, hc, ht⟩ := h
  have port : ∀ p, portAt { State.reset with cfg := c, env := e } p = PortState.reset := portAt_reset
  have live : ∀ p, isLive { State.reset with cfg := c, env := e } p = false := isLive_reset
  have idle : ∀ p, (portAt { State.reset with cfg := c, env := e } p).busy = false := fun p => by rw [port]; rfl
  exact {
    cfg_wf := hc
    device_alone := fun _ q => live (pinPort q)
    refcnt_counts := reset_refcnt_counts
    busy_live := fun p hb => absurd hb (by simp [idle])
    owner_busy := fun hl => by cases hl
    busy_owner := fun p hb => absurd hb.1 (by simp [idle])
    phase_fits := fun p hb => absurd hb (by simp [idle])
    latch_class := fun p _ hb => absurd hb (by simp [idle])
    idle_no_tmp := fun p _ => by rw [port]; rfl
    target_wf := ht }

theorem start_reset : Start State.reset :=
  ⟨resetCfg, Env.reset, rfl, resetCfg_wf, reset_target_wf⟩

/-- Settles O35: the reset state is itself a start. -/
theorem startMeetsInvariant : Obligations.StartMeetsInvariant := by
  unfold Obligations.StartMeetsInvariant
  exact ⟨fun _ => inv_of_start, inv_of_start start_reset⟩

/-! ### Reachable states -/

/-- Every reachable state meets the invariant. -/
theorem inv_of_reachable {s : State} (h : Reachable s) : Inv s := by
  induction h with
  | start s h => exact inv_of_start h
  | step s s' _ hs ih => exact inv_step ih hs

/-- A busy port's latch is a command, and the port is at one of its micro-operations (R30 (h)). -/
theorem op_of_busy {s : State} {p : Port} (h : Inv s) (hb : (portAt s p).busy = true) :
    ∃ i op, decode (portAt s p).cw = .ok i ∧ (plan s.cfg p i)[(portAt s p).k.val]? = some op ∧
      phaseFits (portAt s p).ph (some op) (portAt s p).tmp = true := by
  have fits := h.phase_fits p hb
  cases hop : currentOp s p with
  | none => rw [hop] at fits; cases hph : (portAt s p).ph <;> simp [hph, phaseFits] at fits
  | some op =>
    rw [hop] at fits
    obtain ⟨i, hd, hi⟩ := currentOp_decode hop
    exact ⟨i, op, hd, hi, fits⟩

/-- While the gate is free every busy port waits (R30 (f)). -/
theorem wait_of_free {s : State} {p : Port} (h : Inv s) (free : s.gate.locked = false)
    (hb : (portAt s p).busy = true) : (portAt s p).ph = .wait := by
  by_contra hph
  have held := (h.busy_owner p ⟨hb, hph⟩).1
  rw [free] at held
  cases held

/-- Settles O37: each clause of R30 is a clause of the invariant, which holds of every reachable state. -/
theorem reachableStatesMeetTheRule : Obligations.ReachableStatesMeetTheRule := by
  unfold Obligations.ReachableStatesMeetTheRule
  intro s hr
  have h := inv_of_reachable hr
  refine ⟨fun hl p hp => h.device_alone hl ⟨p.val, hp⟩, h.refcnt_counts, h.busy_live, fun hl => ?_, ?_,
    fun free p hb => wait_of_free h free hb, fun q _ => ?_, fun p hb => ?_⟩
  · obtain ⟨hb, hph⟩ := h.owner_busy hl
    refine ⟨hb, ?_⟩
    change (portAt s s.gate.owner).ph = .rd ∨ (portAt s s.gate.owner).ph = .wr
    cases hc : (portAt s s.gate.owner).ph with
    | wait => exact absurd hc hph
    | rd => exact .inl rfl
    | wr => exact .inr rfl
  · intro p q hp hpp hq hqp
    obtain ⟨held, howner⟩ := h.busy_owner p ⟨hp, hpp⟩
    exact ⟨howner.symm.trans (h.busy_owner q ⟨hq, hqp⟩).2, held, howner⟩
  · cases s.mode[q] <;> decide
  · obtain ⟨i, op, hd, hop, -⟩ := op_of_busy h hb
    exact ⟨i, hd, (List.getElem?_eq_some_iff.1 hop).1⟩

/-! ### The derived lifecycle -/

/-- A live handle is counted (R30 (b)). -/
theorem refcnt_ne_zero_of_live {s : State} {p : Port} (h : Inv s) (hl : isLive s p = true) : s.refcnt ≠ 0 := by
  intro h0
  have hpos := liveCount_pos s.live p hl
  have hcount := h.refcnt_counts
  rw [h0, liveCount] at hcount
  simp only [BitVec.ofNat_eq_ofNat, BitVec.toNat_ofNat, Nat.zero_mod] at hcount
  omega

/-- Where the count is not 0 some handle is live (R30 (b)). -/
theorem live_of_refcnt_ne_zero {s : State} (h : Inv s) (h0 : s.refcnt ≠ 0) : ∃ p, isLive s p = true := by
  have hpos : 0 < s.live.toList.count true := by
    have hcount : s.refcnt.toNat = s.live.toList.count true := h.refcnt_counts
    have : s.refcnt.toNat ≠ 0 := fun e => h0 (BitVec.eq_of_toNat_eq e)
    omega
  obtain ⟨k, hk, he⟩ := List.getElem_of_mem (List.count_pos_iff.1 hpos)
  have hk' : k < 17 := by simpa using hk
  exact ⟨⟨k, hk'⟩, by simpa [isLive] using he⟩

theorem life_empty_iff (s : State) : life s = .empty ↔ s.refcnt = 0 := by
  unfold life
  split
  · next h0 => simpa using h0
  · next h0 => split <;> simpa using h0

theorem life_device_iff {s : State} (h : Inv s) : life s = .device ↔ isLive s portPD = true := by
  unfold life
  split
  · next h0 => simpa using fun hl => refcnt_ne_zero_of_live h hl h0
  · split <;> simp [*]

theorem life_split_iff {s : State} (h : Inv s) : life s = .split ↔ ∃ q, isLive s (pinPort q) = true := by
  unfold life
  split
  · next h0 => simpa using fun q hl => refcnt_ne_zero_of_live h hl h0
  · next h0 =>
    split
    · next hl => simpa using h.device_alone hl
    · next hl =>
      obtain ⟨p, hp⟩ := live_of_refcnt_ne_zero h h0
      obtain rfl | ⟨q, rfl⟩ := port_cases p
      · exact absurd hp hl
      · simpa using ⟨q, hp⟩

/-- The owner of a held gate is busy, so a quiescent state has the gate free (R114). -/
theorem free_of_quiescent {s : State} (h : Inv s) (hq : Quiescent s) : s.gate.locked = false := by
  by_contra hl
  have hb := (h.owner_busy (by simpa using hl)).1
  rw [hq] at hb
  cases hb

/-- Settles O52, a value of `LIFE` at a time. -/
theorem lifeIsExhaustiveAndExclusive : Obligations.LifeIsExhaustiveAndExclusive := by
  unfold Obligations.LifeIsExhaustiveAndExclusive
  exact fun s h => ⟨life_empty_iff s, life_device_iff h, life_split_iff h, free_of_quiescent h⟩

end Sys2Proof.Machine
end

section
/-! No step of a state that meets the invariant faults (U12, U13): each micro-operation exists, is of the kind its phase
names, has its byte latched where it needs one, and is one of at most three. -/

namespace Sys2Proof.Machine

open Sys2Proof.Claims

/-- `RD` is the phase of a read or of a read-modify-write (R101). -/
theorem phaseFits_rd_op {op : MicroOp} {t : Option Byte} (h : phaseFits .rd (some op) t = true) :
    (∃ a, op = .read a) ∨ ∃ a j v, op = .rmw a j v := by
  cases op with
  | read a => exact .inl ⟨a, rfl⟩
  | write a d => cases t <;> cases h
  | rmw a j v => exact .inr ⟨a, j, v, rfl⟩

/-- `WR` is the phase of a write, or of a read-modify-write with its byte latched (R24, R101, R102). -/
theorem phaseFits_wr_op {op : MicroOp} {t : Option Byte} (h : phaseFits .wr (some op) t = true) :
    (∃ a d, op = .write a d) ∨ ∃ a j v b, op = .rmw a j v ∧ t = some b := by
  cases op with
  | read a => cases t <;> cases h
  | write a d => exact .inl ⟨a, d, rfl⟩
  | rmw a j v =>
    cases t with
    | none => cases h
    | some b => exact .inr ⟨a, j, v, b, rfl, rfl⟩

theorem submit_ne_fault (c : Command) (p : Port) (cw : CmdWord) (s : State) (r : Fault) :
    submit c p cw s ≠ .fault r := by
  unfold submit
  split
  · nofun
  · split
    · nofun
    · split
      · nofun
      · split
        · nofun
        · split <;> nofun

theorem acquire_ne_fault {i : Instr} {p : Port} {s : State} {op : MicroOp}
    (hop : (plan s.cfg p i)[(portAt s p).k.val]? = some op) (r : Fault) : acquire (commandOf i) p s ≠ .fault r := by
  unfold acquire
  rw [commandOf_plan, hop]
  split
  · split <;> nofun
  · nofun

/-- ADVANCE stays within the three micro-operations of a well-formed configuration (R17, R104). -/
theorem advance_ne_fault {s : State} (hc : s.cfg.wf = true) (i : Instr) (p : Port) (v : Byte) (r : Fault) :
    advance (commandOf i) p v s ≠ .fault r := by
  unfold advance
  rw [commandOf_plan]
  split
  · next hk =>
    have hlen := plan_length_le i s.cfg p hc
    rw [nextIndex, dif_pos (by omega)]
    nofun
  · nofun

theorem finishWrite_ne_fault {s : State} (hc : s.cfg.wf = true) (i : Instr) (p : Port) (a w : Byte)
    (ans : Option WriteAnswer) (r : Fault) : finishWrite (commandOf i) p a w ans s ≠ .fault r := by
  unfold finishWrite
  split
  · nofun
  · exact advance_ne_fault (s := releaseGate (afterWrite s p a w ans)) hc i p 0 r

theorem busRead_ne_fault {s : State} {i : Instr} {p : Port} {op : MicroOp} (hc : s.cfg.wf = true)
    (hop : (plan s.cfg p i)[(portAt s p).k.val]? = some op)
    (fits : phaseFits (portAt s p).ph (some op) (portAt s p).tmp = true) (ans : Option ReadAnswer) (r : Fault) :
    busRead (commandOf i) p ans s ≠ .fault r := by
  unfold busRead
  rw [commandOf_plan, hop]
  split
  · next may =>
    obtain ⟨-, ph, -, -⟩ := mayTransfer_iff.1 may
    rw [ph] at fits
    obtain ⟨a, rfl⟩ | ⟨a, j, v, rfl⟩ := phaseFits_rd_op fits
    · dsimp only
      split
      · nofun
      · exact advance_ne_fault (s := releaseGate (afterRead s p a ans)) hc i p _ r
    · dsimp only
      split <;> nofun
  · nofun

theorem busWrite_ne_fault {s : State} {i : Instr} {p : Port} {op : MicroOp} (hc : s.cfg.wf = true)
    (hop : (plan s.cfg p i)[(portAt s p).k.val]? = some op)
    (fits : phaseFits (portAt s p).ph (some op) (portAt s p).tmp = true) (ans : Option WriteAnswer) (r : Fault) :
    busWrite (commandOf i) p ans s ≠ .fault r := by
  unfold busWrite
  rw [commandOf_plan, hop]
  split
  · next may =>
    obtain ⟨-, ph, -, -⟩ := mayTransfer_iff.1 may
    rw [ph] at fits
    obtain ⟨a, d, rfl⟩ | ⟨a, j, v, b, rfl, hb⟩ := phaseFits_wr_op fits
    · exact finishWrite_ne_fault hc i p a d ans r
    · rw [hb]
      exact finishWrite_ne_fault hc i p a _ ans r
  · nofun

/-- From a state that meets the invariant no step faults, move by move. -/
theorem step_ne_fault {s : State} (h : Inv s) (r : Fault) : step s ≠ .fault r := by
  cases hm : s.env.moves with
  | nil => rw [step_of_no_move hm]; nofun
  | cons m ms =>
    cases m with
    | submit p cw =>
      cases hb : (portAt s p).busy with
      | true => rw [step_of_submit_busy hm hb]; nofun
      | false =>
        cases hd : decode cw with
        | error e => rw [step_of_undecodable hm hb hd]; nofun
        | ok i => rw [step_of_submit hm hb hd]; exact submit_ne_fault _ _ _ _ r
    | acq p =>
      cases hb : (portAt s p).busy with
      | false => rw [step_of_acq_idle hm hb]; nofun
      | true =>
        obtain ⟨i, op, hd, hop, -⟩ := op_of_busy h hb
        rw [step_of_acq hm hb hd]
        exact acquire_ne_fault (s := withMoves s ms) hop r
    | busRd p ans =>
      cases hb : (portAt s p).busy with
      | false => rw [step_of_busRd_idle hm hb]; nofun
      | true =>
        obtain ⟨i, op, hd, hop, fits⟩ := op_of_busy h hb
        rw [step_of_busRd hm hb hd]
        exact busRead_ne_fault (s := withMoves s ms) h.cfg_wf hop fits ans r
    | busWr p ans =>
      cases hb : (portAt s p).busy with
      | false => rw [step_of_busWr_idle hm hb]; nofun
      | true =>
        obtain ⟨i, op, hd, hop, fits⟩ := op_of_busy h hb
        rw [step_of_busWr hm hb hd]
        exact busWrite_ne_fault (s := withMoves s ms) h.cfg_wf hop fits ans r
    | level q v => rw [step_of_level hm]; nofun
    | event q => rw [step_of_event hm]; nofun
    | poke a v => rw [step_of_poke hm]; nofun

/-- Settles O38. -/
theorem invariantExcludesFaults : Obligations.InvariantExcludesFaults := by
  unfold Obligations.InvariantExcludesFaults
  exact fun _ r h => step_ne_fault h r

end Sys2Proof.Machine
end

section
/-! What a step leaves as it was and what it records: the device address (R20), the tags (R22), the history (R25), and the
answer at a command's end (R26). -/

namespace Sys2Proof.Machine

open Sys2Proof.Claims

/-- After its transfer the command either goes on, with only its port's record and the gate changed, or it ends: the gate
is released, the tag installed where it has one and completes, and the port is answered and idle (R102 to R105). -/
theorem transferEnd_cases {i : Instr} {p : Port} {u s' : State} (hn : ¬ IsLifecycle i)
    (fin : TransferEnd (commandOf i) p u s') :
    (∃ g r, s' = setPort { u with gate := g } p r ∧ r.busy = (portAt u p).busy) ∨
      ∃ w st v, (w = releaseGate u ∨ ∃ m, installs i = some m ∧ w = setMode (releaseGate u) p m) ∧
        s' = respond (makeIdle w p) p (portAt u p).cw st v := by
  cases fin with
  | failed e hs => exact .inr ⟨_, _, _, .inl rfl, hs⟩
  | latched a j v b hop hs => exact .inl ⟨u.gate, _, hs, rfl⟩
  | advanced v hs =>
    obtain ⟨k, -, -, rfl⟩ | ⟨-, rfl⟩ := advance_cases hs
    · exact .inl ⟨_, _, rfl, rfl⟩
    · refine .inr ⟨_, _, _, ?_, rfl⟩
      rw [effect_of_not_lifecycle hn]
      cases hm : installs i with
      | none => exact .inl rfl
      | some m => exact .inr ⟨m, rfl, rfl⟩

/-! ### The configuration and the device address -/

/-- No effect but that of `NEW`, which needs that there is no device, writes `DEVADDR` (R20, R145). -/
theorem effect_devaddr {i : Instr} {s : State} {p : Port} (h0 : s.refcnt ≠ 0)
    (alive : (commandOf i).alive s p = true) : ((commandOf i).effect s p).devaddr = s.devaddr := by
  cases i with
  | new a => exact absurd (by simpa [commandOf, noDevice] using alive) h0
  | _ => simp [commandOf, noEffect]

theorem transferEnd_cfg_devaddr {i : Instr} {p : Port} {u s' : State} (hn : ¬ IsLifecycle i)
    (fin : TransferEnd (commandOf i) p u s') : s'.cfg = u.cfg ∧ s'.devaddr = u.devaddr := by
  obtain ⟨g, r, rfl, -⟩ | ⟨w, st, v, rfl | ⟨m, -, rfl⟩, rfl⟩ := transferEnd_cases hn fin
  · exact ⟨rfl, rfl⟩
  · exact ⟨rfl, rfl⟩
  · simp

/-- Settles O44: of the seven kinds of a step only a command that completes at SUBMIT has an effect that could write
`DEVADDR`. -/
theorem deviceAddressIsImmutable : Obligations.DeviceAddressIsImmutable := by
  unfold Obligations.DeviceAddressIsImmutable
  intro s s' h
  cases stepKind_of_step h with
  | environment same cfg transfers wf =>
    obtain ⟨-, -, devaddr, -⟩ := same
    exact ⟨cfg, fun _ => devaddr⟩
  | rejected p cw st v mp idle hs => exact hs ▸ ⟨rfl, fun _ => rfl⟩
  | completed i p cw mp idle cls alive nil hs =>
    exact hs ▸ ⟨effect_cfg i (popMove s) p, fun h0 => effect_devaddr (s := popMove s) h0 alive⟩
  | accepted i p cw mp idle hd cls live ne hs => exact hs ▸ ⟨rfl, fun _ => rfl⟩
  | waited p mp busy hs => exact hs ▸ ⟨rfl, fun _ => rfl⟩
  | acquired i p op mp busy ph hd free hop hs => exact hs ▸ ⟨rfl, fun _ => rfl⟩
  | transferred i p op u mp busy ph hd owns hop tr fin =>
    obtain ⟨cfg, devaddr⟩ := transferEnd_cfg_devaddr (not_lifecycle_of_plan hop) fin
    exact ⟨cfg.trans tr.cfg, fun _ => devaddr.trans tr.devaddr⟩

/-! ### The tags -/

/-- `Unconfigured` is installed by no command (R115). -/
theorem installs_ne_unconfigured (i : Instr) : installs i ≠ some .unconfigured := by
  cases i <;> simp [installs]

/-- A command that completes at SUBMIT changes no live pin's tag: `SPLIT`, which writes them all, needs the live device
handle, beside which no pin's is live (R146, R30 (a)). -/
theorem completed_modeAt {s : State} {i : Instr} {p : Port} (h : Inv s) (cls : classAdmits (portClass i) p = true)
    (alive : (commandOf i).alive s p = true) (nil : plan s.cfg p i = []) {q : Pin}
    (live : isLive s (pinPort q) = true) : modeAt ((commandOf i).effect s p) q = modeAt s q := by
  obtain ⟨a, rfl⟩ | rfl | rfl := plan_eq_nil_lifecycle i s.cfg p h.cfg_wf cls nil
  · rfl
  · obtain rfl : p = portPD := by simpa [classAdmits, portClass] using cls
    have dead := h.device_alone alive q
    rw [live] at dead
    cases dead
  · rfl

/-- Where a tag differs after a transfer, the command of the pin's own port completed and installed it (R104, R115). -/
theorem transferEnd_modeAt {i : Instr} {p : Port} {u s' : State} {q : Pin} (hn : ¬ IsLifecycle i)
    (fin : TransferEnd (commandOf i) p u s') (hne : modeAt s' q ≠ modeAt u q) :
    p = pinPort q ∧ installs i = some (modeAt s' q) ∧ (portAt s' p).busy = false := by
  obtain ⟨g, r, rfl, -⟩ | ⟨w, st, v, rfl | ⟨m, hm, rfl⟩, rfl⟩ := transferEnd_cases hn fin
  · exact absurd rfl hne
  · exact absurd rfl hne
  · simp only [modeAt_respond, modeAt_makeIdle] at hne ⊢
    obtain rfl | ⟨x, rfl⟩ := port_cases p
    · simp [setMode, pinOf_portPD] at hne
    · obtain rfl : q = x := by
        by_contra hx
        exact hne (modeAt_setMode_ne _ x q m hx)
      simp [hm, makeIdle]

/-- Settles O46, by the seven kinds of a step: a live pin's tag changes in none but the completion after a transfer. -/
theorem tagChangesOnlyByItsOwnCommand : Obligations.TagChangesOnlyByItsOwnCommand := by
  unfold Obligations.TagChangesOnlyByItsOwnCommand
  intro s s' q h hs live hne
  change modeAt s' q ≠ modeAt s q at hne
  cases stepKind_of_step hs with
  | environment same cfg transfers wf =>
    obtain ⟨-, -, -, -, mode, -⟩ := same
    exact absurd (modeAt_congr _ _ mode q) hne
  | rejected p cw st v mp idle hs => exact absurd (hs ▸ rfl) hne
  | completed i p cw mp idle cls alive nil hs =>
    exact absurd (hs ▸ completed_modeAt (inv_popMove h) cls alive nil live) hne
  | accepted i p cw mp idle hd cls live ne hs => exact absurd (hs ▸ rfl) hne
  | waited p mp busy hs => exact absurd (hs ▸ rfl) hne
  | acquired i p op mp busy ph hd free hop hs => exact absurd (hs ▸ rfl) hne
  | transferred i p op u mp busy ph hd owns hop tr fin =>
    rw [← modeAt_congr _ _ tr.mode q] at hne
    obtain ⟨rfl, hi, idle⟩ := transferEnd_modeAt (not_lifecycle_of_plan hop) fin hne
    exact ⟨mp, i, modeAt s' q, hd, hi, rfl, fun e => installs_ne_unconfigured i (e ▸ hi), idle⟩

/-! ### The history -/

@[simp] theorem eventPort_resp (p : Port) (cw : CmdWord) (rw : RespWord) : eventPort (.resp p cw rw) = p := rfl

/-- After its transfer a command records nothing more or its answer, and makes no second transfer (R53). -/
theorem transferEnd_hist {i : Instr} {p : Port} {u s' : State} (hn : ¬ IsLifecycle i)
    (fin : TransferEnd (commandOf i) p u s') :
    s'.env.transfers = u.env.transfers ∧
      (s'.hist = u.hist ∨ ∃ rw, s'.hist = u.hist ++ [.resp p (portAt u p).cw rw]) := by
  obtain ⟨g, r, rfl, -⟩ | ⟨w, st, v, rfl | ⟨m, -, rfl⟩, rfl⟩ := transferEnd_cases hn fin
  · exact ⟨rfl, .inl rfl⟩
  · exact ⟨rfl, .inr ⟨_, rfl⟩⟩
  · exact ⟨by simp, .inr ⟨responseWord st v, by simp⟩⟩

/-- Settles O47, by the seven kinds of a step: it records nothing, an answer, a transfer, or a transfer and an answer. -/
theorem historyOnlyGrows : Obligations.HistoryOnlyGrows := by
  unfold Obligations.HistoryOnlyGrows
  intro s s' h
  cases stepKind_of_step h with
  | environment same cfg transfers wf =>
    obtain ⟨-, -, -, -, -, -, hist⟩ := same
    exact ⟨[], by simp [hist, transfers]⟩
  | rejected p cw st v mp idle hs => exact ⟨[.resp p cw (responseWord st v)], by simp [hs, mp]⟩
  | completed i p cw mp idle cls alive nil hs =>
    exact ⟨[.resp p cw (responseWord .ok 0)], by simp [hs, mp]⟩
  | accepted i p cw mp idle hd cls live ne hs => exact ⟨[], by simp [hs]⟩
  | waited p mp busy hs => exact ⟨[], by simp [hs]⟩
  | acquired i p op mp busy ph hd free hop hs => exact ⟨[], by simp [hs]⟩
  | transferred i p op u mp busy ph hd owns hop tr fin =>
    obtain ⟨e, hist, bus, port⟩ := tr.event
    obtain ⟨transfers, hist' | ⟨rw, hist'⟩⟩ := transferEnd_hist (not_lifecycle_of_plan hop) fin
    · exact ⟨[e], by simp [hist', hist, transfers, tr.transfers, bus, port, mp]⟩
    · exact ⟨[e, .resp p (portAt u p).cw rw],
        by simp [hist', hist, transfers, tr.transfers, bus, port, mp]⟩

/-! ### The answer at the end -/

/-- The step from `s` to `s'` ends with the answer to the word `cw` of port `p` (R26). -/
def Answers (s s' : State) (p : Port) (cw : CmdWord) : Prop :=
  ∃ es rw, s'.hist = s.hist ++ es ++ [.resp p cw rw]

theorem not_answers_of_hist_eq {s s' : State} (h : s'.hist = s.hist) (p : Port) (cw : CmdWord) :
    ¬ Answers s s' p cw := by
  rintro ⟨es, rw, he⟩
  simp [h] at he

/-- The last event recorded says what is answered. -/
theorem answers_iff_last {s s' : State} {es : List Event} {e : Event} (h : s'.hist = s.hist ++ es ++ [e]) (p : Port)
    (cw : CmdWord) : Answers s s' p cw ↔ ∃ rw, e = .resp p cw rw := by
  constructor
  · rintro ⟨es', rw, he⟩
    exact ⟨rw, (List.append_singleton_inj.1 (h.symm.trans he)).2⟩
  · rintro ⟨rw, rfl⟩
    exact ⟨es, rw, h⟩

theorem not_answers_of_other {s s' : State} {es : List Event} {p q : Port} {cw w : CmdWord} {r : RespWord} (hpq : p ≠ q)
    (h : s'.hist = s.hist ++ es ++ [.resp q w r]) : ¬ Answers s s' p cw := by
  rw [answers_iff_last h]
  rintro ⟨rw, he⟩
  cases he
  exact hpq rfl

/-- After a transfer of port `q` a busy port `p` is answered exactly where it is idle. -/
theorem transferEnd_idle_iff_answers {s u s' : State} {i : Instr} {p q : Port} (hn : ¬ IsLifecycle i)
    (hp : (portAt s p).busy = true) (tr : Transferred s q u) (fin : TransferEnd (commandOf i) q u s') :
    (portAt s' p).busy = false ↔ Answers s s' p (portAt s p).cw := by
  obtain ⟨e, hist, bus, -⟩ := tr.event
  have hu : ∀ x, portAt u x = portAt s x := portAt_congr _ _ tr.port
  obtain ⟨g, r, rfl, hr⟩ | ⟨w, st, v, hw, rfl⟩ := transferEnd_cases hn fin
  · have busy : (portAt (setPort { u with gate := g } q r) p).busy = true := by
      by_cases hpq : p = q
      · subst hpq
        rw [portAt_setPort_self, hr, hu, hp]
      · rw [portAt_setPort_ne _ _ _ _ hpq]
        exact (congrArg PortState.busy (hu p)).trans hp
    refine iff_of_false (by simp [busy]) ?_
    rw [answers_iff_last (es := []) (e := e) (by simp [hist])]
    rintro ⟨rw, rfl⟩
    cases bus
  · have hwp : portAt w p = portAt s p ∧ w.hist = s.hist ++ [e] := by
      obtain rfl | ⟨m, -, rfl⟩ := hw <;> simp [hist, hu]
    have hist' : (respond (makeIdle w q) q (portAt u q).cw st v).hist =
        s.hist ++ [e] ++ [.resp q (portAt u q).cw (responseWord st v)] := by simp [hwp.2]
    by_cases hpq : p = q
    · subst hpq
      exact iff_of_true (by simp [makeIdle]) ((answers_iff_last hist' _ _).2 ⟨_, by rw [hu]⟩)
    · refine iff_of_false ?_ (not_answers_of_other hpq hist')
      rw [portAt_respond, makeIdle, portAt_setPort_ne _ _ _ _ hpq, hwp.1, hp]
      decide

/-- A busy port is idle after a step exactly where the step answers it. -/
theorem idle_iff_answers {s s' : State} {p : Port} (hs : step s = .next s') (hp : (portAt s p).busy = true) :
    (portAt s' p).busy = false ↔ Answers s s' p (portAt s p).cw := by
  have ne_of_idle : ∀ q, (portAt s q).busy = false → p ≠ q := by
    rintro q hq rfl
    rw [hp] at hq
    cases hq
  have busy_of_eq : ∀ r : PortState, r = portAt s p → ¬ r.busy = false := by
    rintro r rfl
    simp [hp]
  cases stepKind_of_step hs with
  | environment same cfg transfers wf =>
    obtain ⟨-, -, -, -, -, port, hist⟩ := same
    exact iff_of_false (busy_of_eq _ (portAt_congr _ _ port p)) (not_answers_of_hist_eq hist p _)
  | rejected q cw st v mp idle hs =>
    subst hs
    exact iff_of_false (busy_of_eq _ rfl)
      (not_answers_of_other (es := []) (w := cw) (r := responseWord st v) (ne_of_idle q idle) (by simp))
  | completed i q cw mp idle cls alive nil hs =>
    subst hs
    exact iff_of_false (busy_of_eq _ (portAt_congr s _ (by simp) p))
      (not_answers_of_other (es := []) (w := cw) (r := responseWord .ok 0) (ne_of_idle q idle) (by simp))
  | accepted i q cw mp idle hd cls live ne hs =>
    subst hs
    exact iff_of_false (busy_of_eq _ (portAt_setPort_ne _ _ _ _ (ne_of_idle q idle))) (not_answers_of_hist_eq rfl p _)
  | waited q mp busy hs =>
    subst hs
    exact iff_of_false (busy_of_eq _ rfl) (not_answers_of_hist_eq rfl p _)
  | acquired i q op mp busy ph hd free hop hs =>
    subst hs
    refine iff_of_false ?_ (not_answers_of_hist_eq rfl p _)
    by_cases hpq : p = q
    · subst hpq
      simp [hp]
    · exact busy_of_eq _ (portAt_setPort_ne _ _ _ _ hpq)
  | transferred i q op u mp busy ph hd owns hop tr fin =>
    exact transferEnd_idle_iff_answers (not_lifecycle_of_plan hop) hp tr fin

/-- Settles O48: in none of the seven kinds of a step is a busy port answered without becoming idle, or made idle without
an answer. -/
theorem responseExactlyAtTheEnd : Obligations.ResponseExactlyAtTheEnd := by
  unfold Obligations.ResponseExactlyAtTheEnd
  exact fun _ _ _ _ hs hp => idle_iff_answers hs hp

end Sys2Proof.Machine
end

section
/-! Fields the spec leaves unspecified are read by no step before a step writes them (R20 to R24, R31): every operation, on
two states that are the same in all that has a meaning, gives the same outcome up to such fields. -/

namespace Sys2Proof.Machine

open Sys2Proof.Claims

/-- Two outcomes are of the same kind, with the same reason to stop or with next states of the same meaning. -/
inductive SameOutcome : Result → Result → Prop where
  | next {s t : State} (h : SameMeaning s t) : SameOutcome (.next s) (.next t)
  | fault (r : Fault) : SameOutcome (.fault r) (.fault r)
  | refused (r : Refusal) : SameOutcome (.refused r) (.refused r)

theorem sameOutcome_ite {P : Prop} [Decidable P] {a b a' b' : Result} (ha : P → SameOutcome a a')
    (hb : ¬ P → SameOutcome b b') : SameOutcome (if P then a else b) (if P then a' else b') := by
  split
  · next hp => exact ha hp
  · next hp => exact hb hp

theorem pinPort_ne_portPD (q : Pin) : pinPort q ≠ portPD := by
  revert q
  decide

section
variable {s t : State} (h : SameMeaning s t)
include h

/-! ### The operations on the state keep the meaning -/

theorem sameMeaning_withMoves (ms : List Move) : SameMeaning (withMoves s ms) (withMoves t ms) :=
  { h with env := by simp [withMoves, h.env] }

theorem sameMeaning_withTarget (r : Option Target) : SameMeaning (withTarget s r) (withTarget t r) :=
  { h with env := by simp [withTarget, h.env] }

theorem sameMeaning_respond (p : Port) (cw : CmdWord) (st : Status) (v : Byte) :
    SameMeaning (respond s p cw st v) (respond t p cw st v) :=
  { h with hist := by simp [h.hist] }

theorem sameMeaning_releaseGate : SameMeaning (releaseGate s) (releaseGate t) :=
  { h with locked := rfl, owner := fun hl => by cases hl }

theorem sameMeaning_lockGate (p : Port) : SameMeaning (lockGate s p) (lockGate t p) :=
  { h with locked := rfl, owner := fun _ => rfl }

/-- A port's record may be written differently only where it says that the port is idle. -/
theorem sameMeaning_setPort (p : Port) {r r' : PortState} (hb : r'.busy = r.busy) (hr : r.busy = true → r' = r) :
    SameMeaning (setPort s p r) (setPort t p r') :=
  { h with
    busy := fun x => by
      by_cases hx : x = p
      · subst hx
        simpa using hb
      · rw [portAt_setPort_ne _ _ _ _ hx, portAt_setPort_ne _ _ _ _ hx, h.busy]
    latches := fun x => by
      by_cases hx : x = p
      · subst hx
        simpa using hr
      · rw [portAt_setPort_ne _ _ _ _ hx, portAt_setPort_ne _ _ _ _ hx]
        exact h.latches x }

theorem sameMeaning_makeIdle (p : Port) : SameMeaning (makeIdle s p) (makeIdle t p) :=
  sameMeaning_setPort h p rfl fun hb => by cases hb

theorem sameMeaning_raiseError (p : Port) (cw : CmdWord) (k : ErrorKind) :
    SameMeaning (raiseError s p cw k) (raiseError t p cw k) := by
  cases k with
  | busError e => exact sameMeaning_respond (sameMeaning_makeIdle (sameMeaning_releaseGate h) p) p cw _ _
  | modeError => exact sameMeaning_respond h p cw _ _
  | initError => exact sameMeaning_respond h p cw _ _
  | illegal => exact sameMeaning_respond h p cw _ _

theorem sameMeaning_setMode (p : Port) (m : Mode) : SameMeaning (setMode s p m) (setMode t p m) := by
  obtain rfl | ⟨x, rfl⟩ := port_cases p
  · simpa [setMode, pinOf_portPD] using h
  · have tag : ∀ q, isLive s (pinPort q) = true →
        modeAt (setMode t (pinPort x) m) q = modeAt (setMode s (pinPort x) m) q := by
      intro q hl
      by_cases hq : q = x
      · subst hq
        simp
      · rw [modeAt_setMode_ne _ _ _ _ hq, modeAt_setMode_ne _ _ _ _ hq, h.mode q hl]
    rw [setMode_pinPort, setMode_pinPort] at *
    exact { h with mode := tag }

/-! ### The environment's answers (R49) -/

theorem readReply_sameMeaning (hdev : t.devaddr = s.devaddr) (a : Byte) (ans : Option ReadAnswer) :
    readReply t a ans = readReply s a ans := by
  simp only [readReply, nextTransfer, h.env, h.cfg, hdev]

theorem writeReply_sameMeaning (hdev : t.devaddr = s.devaddr) (a v : Byte) (ans : Option WriteAnswer) :
    writeReply t a v ans = writeReply s a v ans := by
  simp only [writeReply, nextTransfer, h.env, hdev]

theorem sameMeaning_afterRead (hdev : t.devaddr = s.devaddr) (p : Port) (a : Byte) (ans : Option ReadAnswer) :
    SameMeaning (afterRead s p a ans) (afterRead t p a ans) :=
  { h with
    hist := by simp [h.hist, hdev, readReply_sameMeaning h hdev]
    env := by simp [h.env, readReply_sameMeaning h hdev] }

theorem sameMeaning_afterWrite (hdev : t.devaddr = s.devaddr) (p : Port) (a v : Byte) (ans : Option WriteAnswer) :
    SameMeaning (afterWrite s p a v ans) (afterWrite t p a v ans) :=
  { h with
    hist := by simp [h.hist, hdev, writeReply_sameMeaning h hdev]
    env := by simp [h.env, writeReply_sameMeaning h hdev] }

/-! ### SUBMIT (R100) -/

theorem alive_sameMeaning (i : Instr) (p : Port) : (commandOf i).alive t p = (commandOf i).alive s p := by
  have live : handleLive t p = handleLive s p := isLive_congr s t h.live p
  cases i with
  | new a => simp [commandOf, noDevice, h.refcnt]
  | _ => exact live

/-- The mode check reads the tag of a live pin only (R100 cases 4 and 6). -/
theorem outputModeCheck_sameMeaning {p : Port} (live : isLive s p = true) :
    outputModeCheck t p = outputModeCheck s p := by
  obtain rfl | ⟨q, rfl⟩ := port_cases p
  · simp [outputModeCheck, pinOf_portPD]
  · simp [outputModeCheck, pinOf_pinPort, h.mode q live]

theorem check_sameMeaning {i : Instr} {p : Port} (alive : (commandOf i).alive s p = true) :
    (commandOf i).check t p = (commandOf i).check s p := by
  cases i with
  | setLow => exact outputModeCheck_sameMeaning h alive
  | setHigh => exact outputModeCheck_sameMeaning h alive
  | _ => rfl

theorem sameMeaning_newEffect (a : Byte) (p : Port) : SameMeaning (newEffect a s p) (newEffect a t p) :=
  { h with
    live := by simp [h.live]
    refcnt := rfl
    devaddr := fun _ => rfl
    mode := fun q hl => h.mode q (by
      rwa [← isLive_setLive_ne s portPD (pinPort q) true (pinPort_ne_portPD q)]) }

/-- `SPLIT` writes every tag; it keeps `DEVADDR`, which has a meaning while its handle is live (R146). -/
theorem sameMeaning_splitEffect (h0 : s.refcnt ≠ 0) (p : Port) : SameMeaning (splitEffect s p) (splitEffect t p) :=
  { h with
    live := rfl
    refcnt := rfl
    devaddr := fun _ => h.devaddr h0
    mode := fun _ _ => rfl }

theorem sameMeaning_dropEffect (h0 : s.refcnt ≠ 0) (p : Port) : SameMeaning (dropEffect s p) (dropEffect t p) :=
  { h with
    live := by simp [h.live]
    refcnt := by simp [h.refcnt]
    devaddr := fun _ => h.devaddr h0
    mode := fun q hl => h.mode q (by
      by_cases hq : pinPort q = p
      · subst hq
        simp [isLive] at hl
      · rwa [← isLive_setLive_ne s p (pinPort q) false hq]) }

theorem sameMeaning_effect_of_not_lifecycle {i : Instr} (hn : ¬ IsLifecycle i) (p : Port) :
    SameMeaning ((commandOf i).effect s p) ((commandOf i).effect t p) := by
  rw [effect_of_not_lifecycle hn, effect_of_not_lifecycle hn]
  cases installs i with
  | none => exact h
  | some m => exact sameMeaning_setMode h p m

theorem sameMeaning_effect (hs : Inv s) {i : Instr} {p : Port} (alive : (commandOf i).alive s p = true) :
    SameMeaning ((commandOf i).effect s p) ((commandOf i).effect t p) := by
  cases i with
  | new a => exact sameMeaning_newEffect h a p
  | split => exact sameMeaning_splitEffect h (refcnt_ne_zero_of_live hs alive) p
  | drop => exact sameMeaning_dropEffect h (refcnt_ne_zero_of_live hs alive) p
  | _ => exact sameMeaning_effect_of_not_lifecycle h (by simp [IsLifecycle]) p

/-- The latches of an accepted command are all written but `TMP`, which an idle port leaves without a value (R24). -/
theorem sameMeaning_latchCommand (hs : Inv s) (ht : Inv t) {p : Port} (idle : (portAt s p).busy = false) (cw : CmdWord) :
    SameMeaning (latchCommand s p cw) (latchCommand t p cw) := by
  refine sameMeaning_setPort h p rfl fun _ => ?_
  simp [hs.idle_no_tmp p idle, ht.idle_no_tmp p ((h.busy p).trans idle)]

theorem submit_sameOutcome (hs : Inv s) (ht : Inv t) (i : Instr) (p : Port) (cw : CmdWord) :
    SameOutcome (submit (commandOf i) p cw s) (submit (commandOf i) p cw t) := by
  unfold submit
  rw [h.busy p, alive_sameMeaning h, h.cfg]
  refine sameOutcome_ite (fun _ => .refused _) fun hb =>
    sameOutcome_ite (fun _ => .next (sameMeaning_raiseError h p cw _)) fun _ =>
    sameOutcome_ite (fun _ => .next (sameMeaning_raiseError h p cw _)) fun hal => ?_
  have idle : (portAt s p).busy = false := by simpa using hb
  have alive : (commandOf i).alive s p = true := by simpa using hal
  rw [check_sameMeaning h alive]
  cases (commandOf i).check s p with
  | some k => exact .next (sameMeaning_raiseError h p cw k)
  | none =>
    exact sameOutcome_ite (fun _ => .next (sameMeaning_respond (sameMeaning_effect h hs alive) p cw _ _))
      fun _ => .next (sameMeaning_latchCommand h hs ht idle cw)

/-! ### The steps of a busy port (R101 to R104) -/

theorem acquire_sameOutcome (c : Command) {p : Port} (hp : portAt t p = portAt s p) :
    SameOutcome (acquire c p s) (acquire c p t) := by
  unfold acquire
  rw [hp, h.locked, h.cfg]
  split_ifs
  · exact .next h
  · cases (c.plan s.cfg p)[(portAt s p).k.val]? with
    | some op => exact .next (sameMeaning_setPort (sameMeaning_lockGate h p) p rfl fun _ => rfl)
    | none => exact .fault _
  · exact .refused _

theorem advance_sameOutcome {i : Instr} (hn : ¬ IsLifecycle i) {p : Port} (hp : portAt t p = portAt s p) (v : Byte) :
    SameOutcome (advance (commandOf i) p v s) (advance (commandOf i) p v t) := by
  unfold advance
  rw [hp, h.cfg]
  split_ifs
  · cases nextIndex (portAt s p).k with
    | some k => exact .next (sameMeaning_setPort h p rfl fun _ => rfl)
    | none => exact .fault _
  · exact .next (sameMeaning_respond (sameMeaning_makeIdle (sameMeaning_effect_of_not_lifecycle h hn p) p) p _ _ _)

/-- The owner is read only while the gate is held (R21, R102, R103). -/
theorem mayTransfer_sameMeaning {p : Port} (hp : portAt t p = portAt s p) (ph : Phase) :
    mayTransfer t p ph = mayTransfer s p ph := by
  unfold mayTransfer
  rw [hp, h.locked]
  cases hl : s.gate.locked with
  | false => simp
  | true => rw [h.owner hl]

theorem busRead_sameOutcome {i : Instr} (hn : ¬ IsLifecycle i) {p : Port} (hp : portAt t p = portAt s p)
    (hdev : t.devaddr = s.devaddr) (ans : Option ReadAnswer) :
    SameOutcome (busRead (commandOf i) p ans s) (busRead (commandOf i) p ans t) := by
  have after := fun a => sameMeaning_afterRead h hdev p a ans
  unfold busRead
  rw [mayTransfer_sameMeaning h hp, hp, h.cfg]
  split_ifs
  · cases ((commandOf i).plan s.cfg p)[(portAt s p).k.val]? with
    | none => exact .fault _
    | some op =>
      cases op with
      | read a =>
        dsimp only
        rw [readReply_sameMeaning h hdev]
        cases (readReply s a ans).1 with
        | err e => exact .next (sameMeaning_raiseError (after a) p _ _)
        | ok b => exact advance_sameOutcome (sameMeaning_releaseGate (after a)) hn hp _
      | write a d => exact .fault _
      | rmw a j v =>
        dsimp only
        rw [readReply_sameMeaning h hdev]
        cases (readReply s a ans).1 with
        | err e => exact .next (sameMeaning_raiseError (after a) p _ _)
        | ok b =>
          refine .next (sameMeaning_setPort (after a) p ?_ fun _ => ?_)
          · simp [hp]
          · simp [hp]
  · exact .refused _

theorem finishWrite_sameOutcome {i : Instr} (hn : ¬ IsLifecycle i) {p : Port} (hp : portAt t p = portAt s p)
    (hdev : t.devaddr = s.devaddr) (a w : Byte) (ans : Option WriteAnswer) :
    SameOutcome (finishWrite (commandOf i) p a w ans s) (finishWrite (commandOf i) p a w ans t) := by
  have after := sameMeaning_afterWrite h hdev p a w ans
  unfold finishWrite
  rw [writeReply_sameMeaning h hdev, hp]
  cases (writeReply s a w ans).1 with
  | err e => exact .next (sameMeaning_raiseError after p _ _)
  | ok => exact advance_sameOutcome (sameMeaning_releaseGate after) hn hp _

theorem busWrite_sameOutcome {i : Instr} (hn : ¬ IsLifecycle i) {p : Port} (hp : portAt t p = portAt s p)
    (hdev : t.devaddr = s.devaddr) (ans : Option WriteAnswer) :
    SameOutcome (busWrite (commandOf i) p ans s) (busWrite (commandOf i) p ans t) := by
  unfold busWrite
  rw [mayTransfer_sameMeaning h hp, hp, h.cfg]
  split_ifs
  · cases ((commandOf i).plan s.cfg p)[(portAt s p).k.val]? with
    | none => exact .fault _
    | some op =>
      cases op with
      | read a => exact .fault _
      | write a d => exact finishWrite_sameOutcome h hn hp hdev a d ans
      | rmw a j v =>
        cases (portAt s p).tmp with
        | none => exact .fault _
        | some b => exact finishWrite_sameOutcome h hn hp hdev a _ ans
  · exact .refused _

/-! ### One step -/

theorem step_sameOutcome (hs : Inv s) (ht : Inv t) : SameOutcome (step s) (step t) := by
  have idle : ∀ p, (portAt s p).busy = false → (portAt t p).busy = false := fun p hb => (h.busy p).trans hb
  cases hm : s.env.moves with
  | nil =>
    have hm' : t.env.moves = [] := by rw [h.env, hm]
    rw [step_of_no_move hm, step_of_no_move hm']
    exact .next h
  | cons m ms =>
    have hm' : t.env.moves = m :: ms := by rw [h.env, hm]
    have target : ∀ f : Target → Target, SameMeaning (withMoves (withTarget s (s.env.target.map f)) ms)
        (withMoves (withTarget t (t.env.target.map f)) ms) := by
      intro f
      rw [h.env]
      exact sameMeaning_withMoves (sameMeaning_withTarget h _) ms
    have popped := sameMeaning_withMoves h ms
    cases m with
    | submit p cw =>
      cases hb : (portAt s p).busy with
      | true =>
        rw [step_of_submit_busy hm hb, step_of_submit_busy hm' ((h.busy p).trans hb)]
        exact .refused _
      | false =>
        cases hd : decode cw with
        | error e =>
          rw [step_of_undecodable hm hb hd, step_of_undecodable hm' (idle p hb) hd]
          exact .next (sameMeaning_withMoves (sameMeaning_respond h p cw .illegal 0) ms)
        | ok i =>
          rw [step_of_submit hm hb hd, step_of_submit hm' (idle p hb) hd]
          exact submit_sameOutcome popped (inv_withMoves hs ms) (inv_withMoves ht ms) i p cw
    | acq p =>
      cases hb : (portAt s p).busy with
      | false =>
        rw [step_of_acq_idle hm hb, step_of_acq_idle hm' (idle p hb)]
        exact .refused _
      | true =>
        have hp := h.latches p hb
        obtain ⟨i, op, hd, -, -⟩ := op_of_busy hs hb
        rw [step_of_acq hm hb hd, step_of_acq hm' (hp ▸ hb) (hp ▸ hd)]
        exact acquire_sameOutcome popped _ hp
    | busRd p ans =>
      cases hb : (portAt s p).busy with
      | false =>
        rw [step_of_busRd_idle hm hb, step_of_busRd_idle hm' (idle p hb)]
        exact .refused _
      | true =>
        have hp := h.latches p hb
        have hdev := h.devaddr (refcnt_ne_zero_of_live hs (hs.busy_live p hb))
        obtain ⟨i, op, hd, hop, -⟩ := op_of_busy hs hb
        rw [step_of_busRd hm hb hd, step_of_busRd hm' (hp ▸ hb) (hp ▸ hd)]
        exact busRead_sameOutcome popped (not_lifecycle_of_plan hop) hp hdev ans
    | busWr p ans =>
      cases hb : (portAt s p).busy with
      | false =>
        rw [step_of_busWr_idle hm hb, step_of_busWr_idle hm' (idle p hb)]
        exact .refused _
      | true =>
        have hp := h.latches p hb
        have hdev := h.devaddr (refcnt_ne_zero_of_live hs (hs.busy_live p hb))
        obtain ⟨i, op, hd, hop, -⟩ := op_of_busy hs hb
        rw [step_of_busWr hm hb hd, step_of_busWr hm' (hp ▸ hb) (hp ▸ hd)]
        exact busWrite_sameOutcome popped (not_lifecycle_of_plan hop) hp hdev ans
    | level q v =>
      rw [step_of_level hm, step_of_level hm']
      exact .next (target _)
    | event q =>
      rw [step_of_event hm, step_of_event hm', h.cfg]
      exact .next (target _)
    | poke a v =>
      rw [step_of_poke hm, step_of_poke hm']
      exact .next (target _)

end

theorem next_of_sameOutcome {s' : State} {o : Result} (h : SameOutcome (.next s') o) :
    ∃ t', o = .next t' ∧ SameMeaning s' t' := by
  cases h with
  | next h => exact ⟨_, rfl, h⟩

theorem refused_of_sameOutcome {r : Refusal} {o : Result} (h : SameOutcome (.refused r) o) : o = .refused r := by
  cases h
  rfl

/-- Settles O43: the steps of the two states have the same outcome, move by move. -/
theorem unspecifiedFieldsAreNeverRead : Obligations.UnspecifiedFieldsAreNeverRead := by
  unfold Obligations.UnspecifiedFieldsAreNeverRead
  intro s t hs ht h
  have same := step_sameOutcome h hs ht
  exact ⟨fun s' hn => next_of_sameOutcome (hn ▸ same), fun r hr => refused_of_sameOutcome (hr ▸ same)⟩

end Sys2Proof.Machine
end

section
/-! The transfer a step records: which micro-operation issues it, on which register, and with which byte (R47, R48, R53,
R102, R103). -/

namespace Sys2Proof.Machine

open Sys2Proof.Claims

/-- `e` is a transfer that the port owning the gate issues in `s`, for the micro-operation it is at: the read of its
register, or the write of the byte it gives or of the byte latched with one bit replaced (R102, R103). -/
inductive Issues (s : State) : Event → Prop where
  | read (p : Port) (op : MicroOp) (a : Byte) (r : ReadAnswer) (owns : Owns s p) (busy : (portAt s p).busy = true)
      (ph : (portAt s p).ph = .rd) (hop : currentOp s p = some op) (reads : op = .read a ∨ ∃ j v, op = .rmw a j v) :
      Issues s (.busWtr p s.devaddr [a] r)
  | write (p : Port) (op : MicroOp) (a w : Byte) (r : WriteAnswer) (owns : Owns s p) (busy : (portAt s p).busy = true)
      (ph : (portAt s p).ph = .wr) (hop : currentOp s p = some op)
      (writes : op = .write a w ∨ ∃ j v b, op = .rmw a j v ∧ (portAt s p).tmp = some b ∧ w = merge b j v) :
      Issues s (.busW p s.devaddr [a, w] r)

/-- The micro-operation a fetched command is at is that of its port. -/
theorem currentOp_of_fetch {s : State} {i : Instr} {p q : Port} {cw : CmdWord} {op : MicroOp}
    (hf : fetch s = some (q, cw)) (hd : decode cw = .ok i) (mp : movingPort s = some p)
    (busy : (portAt s p).busy = true) (hop : ((commandOf i).plan s.cfg p)[(portAt s p).k.val]? = some op) :
    currentOp s p = some op := by
  rw [currentOp_eq (decode_latched hf hd mp busy), ← commandOf_plan]
  exact hop

theorem issues_read {s : State} {i : Instr} {p q : Port} {cw : CmdWord} {op : MicroOp} {ans : Option ReadAnswer}
    {a : Byte} {ms : List Move} (hf : fetch s = some (q, cw)) (hd : decode cw = .ok i)
    (hm : s.env.moves = .busRd p ans :: ms) (may : mayTransfer s p .rd = true)
    (hop : ((commandOf i).plan s.cfg p)[(portAt s p).k.val]? = some op)
    (reads : op = .read a ∨ ∃ j v, op = .rmw a j v) (r : ReadAnswer) : Issues s (.busWtr p s.devaddr [a] r) := by
  obtain ⟨busy, ph, owns⟩ := mayTransfer_iff.1 may
  exact .read p op a r owns busy ph (currentOp_of_fetch hf hd (movingPort_busRd hm) busy hop) reads

theorem issues_write {s : State} {i : Instr} {p q : Port} {cw : CmdWord} {op : MicroOp} {ans : Option WriteAnswer}
    {a w : Byte} {ms : List Move} (hf : fetch s = some (q, cw)) (hd : decode cw = .ok i)
    (hm : s.env.moves = .busWr p ans :: ms) (may : mayTransfer s p .wr = true)
    (hop : ((commandOf i).plan s.cfg p)[(portAt s p).k.val]? = some op)
    (writes : op = .write a w ∨ ∃ j v b, op = .rmw a j v ∧ (portAt s p).tmp = some b ∧ w = merge b j v)
    (r : WriteAnswer) : Issues s (.busW p s.devaddr [a, w] r) := by
  obtain ⟨busy, ph, owns⟩ := mayTransfer_iff.1 may
  exact .write p op a w r owns busy ph (currentOp_of_fetch hf hd (movingPort_busWr hm) busy hop) writes

/-- The events a step added, each transfer among them issued in `s`. -/
def RecordsIssued (s s' : State) : Prop :=
  ∃ es, s'.hist = s.hist ++ es ∧ ∀ e ∈ es, isBus e = true → Issues s e

theorem recordsIssued_of_hist_eq {s s' : State} (h : s'.hist = s.hist) : RecordsIssued s s' :=
  ⟨[], by simp [h]⟩

theorem recordsIssued_of_answer {s s' : State} {p : Port} {cw : CmdWord} {rw : RespWord}
    (h : s'.hist = s.hist ++ [.resp p cw rw]) : RecordsIssued s s' :=
  ⟨_, h, by simp⟩

/-- However a transfer ends, no second one is recorded. -/
theorem recordsIssued_of_transferEnd {s u s' : State} {i : Instr} {p : Port} {e : Event} (hn : ¬ IsLifecycle i)
    (fin : TransferEnd (commandOf i) p u s') (hu : u.hist = s.hist ++ [e]) (he : Issues s e) : RecordsIssued s s' := by
  obtain ⟨-, h | ⟨rw, h⟩⟩ := transferEnd_hist hn fin
  · exact ⟨[e], h.trans hu, by simpa using fun _ => he⟩
  · exact ⟨[e, .resp p (portAt u p).cw rw], by simp [h, hu], by simpa using fun _ => he⟩

theorem raiseError_hist (s : State) (p : Port) (cw : CmdWord) (k : ErrorKind) :
    ∃ rw, (raiseError s p cw k).hist = s.hist ++ [.resp p cw rw] := by
  cases k <;> exact ⟨_, rfl⟩

theorem not_lifecycle_of_commandOf_plan {i : Instr} {c : Cfg} {p : Port} {k : Nat} {op : MicroOp}
    (hop : ((commandOf i).plan c p)[k]? = some op) : ¬ IsLifecycle i := by
  rw [commandOf_plan] at hop
  exact not_lifecycle_of_plan hop

theorem recordsIssued_of_command {s s' : State} {i : Instr} {q : Port} {cw : CmdWord} (hf : fetch s = some (q, cw))
    (hd : decode cw = .ok i) (move : CommandMove (commandOf i) s s') : RecordsIssued s s' := by
  cases move with
  | rejected p w k ms hm idle why hs =>
    obtain ⟨rw, h⟩ := raiseError_hist (popMove s) p w k
    exact recordsIssued_of_answer (hs ▸ h)
  | done p w ms hm idle cls alive check nil hs =>
    exact recordsIssued_of_answer (p := p) (cw := w) (rw := responseWord .ok 0) (by simp [hs])
  | accepted p w ms hm idle cls alive check ne hs => exact recordsIssued_of_hist_eq (hs ▸ rfl)
  | waited p ms hm busy ph held hs => exact recordsIssued_of_hist_eq (hs ▸ rfl)
  | acquired p op ms hm busy ph free hop hs => exact recordsIssued_of_hist_eq (hs ▸ rfl)
  | readFailed p ans op a e ms hm may hop reads reply hs =>
    exact recordsIssued_of_transferEnd (not_lifecycle_of_commandOf_plan hop) (.failed e hs) rfl
      (issues_read hf hd hm may hop reads _)
  | readLatched p ans a j v b ms hm may hop reply hs =>
    exact recordsIssued_of_transferEnd (u := afterRead (popMove s) p a ans) (not_lifecycle_of_commandOf_plan hop)
      (.latched a j v b hop hs) rfl (issues_read hf hd hm may hop (.inr ⟨j, v, rfl⟩) _)
  | readDone p ans a b ms hm may hop reply hs =>
    exact recordsIssued_of_transferEnd (not_lifecycle_of_commandOf_plan hop) (.advanced _ hs) rfl
      (issues_read hf hd hm may hop (.inl rfl) _)
  | writeFailed p ans op a w e ms hm may hop writes reply hs =>
    exact recordsIssued_of_transferEnd (not_lifecycle_of_commandOf_plan hop) (.failed e hs) rfl
      (issues_write hf hd hm may hop writes _)
  | writeDone p ans op a w ms hm may hop writes reply hs =>
    exact recordsIssued_of_transferEnd (not_lifecycle_of_commandOf_plan hop) (.advanced _ hs) rfl
      (issues_write hf hd hm may hop writes _)

/-- Every transfer a step records is one that the port owning the gate issues. -/
theorem recordsIssued_of_step {s s' : State} (h : step s = .next s') : RecordsIssued s s' := by
  cases step_cases h with
  | command i p cw hf hd move => exact recordsIssued_of_command hf hd move
  | notACommand p cw ms e hm idle hd hs =>
    obtain ⟨rw, h⟩ := raiseError_hist (popMove s) p cw .illegal
    exact recordsIssued_of_answer (hs ▸ h)
  | none hm hs => exact recordsIssued_of_hist_eq (hs ▸ rfl)
  | target f hs wf => exact recordsIssued_of_hist_eq (hs ▸ rfl)

/-- A step records no transfer, or one that the port owning the gate issues. -/
theorem step_busEvents {s s' : State} (h : step s = .next s') :
    busEvents s'.hist = busEvents s.hist ∨ ∃ e, Issues s e ∧ busEvents s'.hist = busEvents s.hist ++ [e] := by
  obtain ⟨es, hist, one, -⟩ := historyOnlyGrows s s' h
  obtain ⟨es', hist', issued⟩ := recordsIssued_of_step h
  obtain rfl : es = es' := List.append_cancel_left (hist.symm.trans hist')
  rw [hist, busEvents_append]
  match hb : busEvents es with
  | [] => exact .inl (List.append_nil _)
  | [e] =>
    have he : e ∈ es.filter isBus := by change e ∈ busEvents es; simp [hb]
    obtain ⟨mem, bus⟩ := List.mem_filter.1 he
    exact .inr ⟨e, issued e mem bus, rfl⟩
  | _ :: _ :: _ => simp [hb] at one

/-! ### A pin port's micro-operations (R52, R121) -/

theorem readPlan_pinPort (c : Cfg) (f : Family) (q : Pin) :
    readPlan c f (pinPort q) = [.read (addrOf c f (bank q))] := by
  simp [readPlan, pinPlan, pinOf_pinPort]

theorem rmwPlan_pinPort (c : Cfg) (f : Family) (v : Bool) (q : Pin) :
    rmwPlan c f v (pinPort q) = [.rmw (addrOf c f (bank q)) (bitpos q) v] := by
  simp [rmwPlan, pinPlan, pinOf_pinPort]

theorem intoPlan_pinPort (c : Cfg) (m : Mode) (q : Pin) :
    intoPlan c m (pinPort q) = (modeSeqOf c m).map fun e => .rmw (addrOf c e.1 (bank q)) (bitpos q) e.2 := by
  simp [intoPlan, pinPlan, pinOf_pinPort]

/-- `op` reads a register of the bank of pin `q`, or changes the pin's bit of one. -/
def OpOfPin (c : Cfg) (q : Pin) (op : MicroOp) : Prop :=
  (∃ f, op = .read (addrOf c f (bank q))) ∨ ∃ f v, op = .rmw (addrOf c f (bank q)) (bitpos q) v

theorem opOfPin_of_readPlan {c : Cfg} {f : Family} {q : Pin} {op : MicroOp} (h : op ∈ readPlan c f (pinPort q)) :
    OpOfPin c q op := by
  rw [readPlan_pinPort] at h
  exact .inl ⟨f, List.mem_singleton.1 h⟩

theorem opOfPin_of_rmwPlan {c : Cfg} {f : Family} {v : Bool} {q : Pin} {op : MicroOp}
    (h : op ∈ rmwPlan c f v (pinPort q)) : OpOfPin c q op := by
  rw [rmwPlan_pinPort] at h
  exact .inr ⟨f, v, List.mem_singleton.1 h⟩

theorem opOfPin_of_intoPlan {c : Cfg} {m : Mode} {q : Pin} {op : MicroOp} (h : op ∈ intoPlan c m (pinPort q)) :
    OpOfPin c q op := by
  rw [intoPlan_pinPort] at h
  obtain ⟨⟨f, v⟩, -, rfl⟩ := List.mem_map.1 h
  exact .inr ⟨f, v, rfl⟩

/-- Every micro-operation of a command that a pin port accepts is of its own pin (R71, R90). -/
theorem opOfPin_of_plan {i : Instr} {c : Cfg} {q : Pin} {op : MicroOp}
    (cls : classAdmits (portClass i) (pinPort q) = true) (h : op ∈ plan c (pinPort q) i) : OpOfPin c q op := by
  cases i with
  | new _ | split | rdreg _ | wrreg _ _ | modbit _ _ _ => exact absurd (of_decide_eq_true cls) (pinPort_ne_portPD q)
  | drop => cases h
  | isLow | isHigh | irqStatus => exact opOfPin_of_readPlan h
  | setLow | setHigh | irqDisarm | irqArm => exact opOfPin_of_rmwPlan h
  | intoInput | intoInputPu | intoInputPd | intoOutput | intoOutputOd => exact opOfPin_of_intoPlan h

/-- Under the invariant a busy pin port is at a micro-operation of its own pin. -/
theorem opOfPin_of_currentOp {s : State} {q : Pin} {op : MicroOp} (h : Inv s)
    (busy : (portAt s (pinPort q)).busy = true) (hop : currentOp s (pinPort q) = some op) : OpOfPin s.cfg q op := by
  obtain ⟨i, hd, hi⟩ := currentOp_decode hop
  exact opOfPin_of_plan (h.latch_class _ i busy hd) (List.mem_of_getElem? hi)

/-- Settles O49: a transfer is issued for the micro-operation its port is at, and a pin port's are all of its own
pin. -/
theorem pinPortReachesOnlyItsBit : Obligations.PinPortReachesOnlyItsBit := by
  unfold Obligations.PinPortReachesOnlyItsBit
  intro s s' q h hs
  obtain ⟨es, hist, issued⟩ := recordsIssued_of_step hs
  rw [hist, List.drop_left]
  constructor
  · intro dev out r he
    cases issued _ he rfl with
    | read p op a r owns busy ph hop reads =>
      obtain ⟨f, rfl⟩ | ⟨f, v, rfl⟩ := opOfPin_of_currentOp h busy hop
      · exact ⟨f, rfl, by simpa [eq_comm] using reads⟩
      · exact ⟨f, rfl, by simpa [eq_comm] using reads⟩
  · intro dev out r he
    cases issued _ he rfl with
    | write p op a w r owns busy ph hop writes =>
      obtain ⟨f, rfl⟩ | ⟨f, v, rfl⟩ := opOfPin_of_currentOp h busy hop
      · simp at writes
      · obtain hw | ⟨j, u, b, hop', hb, rfl⟩ := writes
        · cases hw
        · cases hop'
          exact ⟨f, b, v, rfl, hb, rfl⟩

end Sys2Proof.Machine
end

section
/-! Runs of several steps: a first step and the rest, and what no run takes from the history (R25). -/

namespace Sys2Proof.Machine

open Sys2Proof.Claims

theorem run_zero_eq_next {s t : State} : Host.Core.run core 0 s = .next t ↔ s = t :=
  ⟨fun h => by cases h; rfl, fun h => h ▸ rfl⟩

theorem core_run_of_step {M : Host.Core} {n : Nat} {s u : M.State} (h : M.step s = .next u) :
    M.run (n + 1) s = M.run n u := by
  rw [Host.Core.run, h]

/-- A run goes on from the state after its first step. -/
theorem run_of_step {n : Nat} {s u : State} (h : step s = .next u) :
    Host.Core.run core (n + 1) s = Host.Core.run core n u :=
  core_run_of_step (M := core) h

/-- A run of any machine that answers a next state made a first step and went on from there. -/
theorem core_run_succ_eq_next {M : Host.Core} {n : Nat} {s t : M.State} :
    M.run (n + 1) s = .next t ↔ ∃ u, M.step s = .next u ∧ M.run n u = .next t := by
  rw [Host.Core.run]
  cases M.step s <;> simp

/-- A run that answers a next state made a first step and went on from there. -/
theorem run_succ_eq_next {n : Nat} {s t : State} :
    Host.Core.run core (n + 1) s = .next t ↔ ∃ u, step s = .next u ∧ Host.Core.run core n u = .next t :=
  core_run_succ_eq_next

/-- The events recorded before a run stay at the head of the history. -/
theorem hist_prefix_of_run {n : Nat} {s t : State} (h : Host.Core.run core n s = .next t) : s.hist <+: t.hist := by
  induction n generalizing s with
  | zero => exact run_zero_eq_next.1 h ▸ List.prefix_rfl
  | succ n ih =>
    obtain ⟨u, hu, ht⟩ := run_succ_eq_next.1 h
    obtain ⟨es, hist, -⟩ := historyOnlyGrows s u hu
    exact .trans ⟨es, hist.symm⟩ (ih ht)

end Sys2Proof.Machine
end

section
/-! The two halves of a read-modify-write are adjacent (R54): while a port owns the gate, the others leave its record and
the gate as they are, and it makes no transfer but the write half. -/

namespace Sys2Proof.Machine

open Sys2Proof.Claims

/-- Between the halves of a read-modify-write: port `p` owns the gate and is about to write bit `j` of the byte `x` it read
at `a` (R102 (b), R103). -/
structure BetweenHalves (s : State) (p : Port) (a x : Byte) (j : BitVec 3) (v : Bool) : Prop where
  inv  : Inv s
  owns : Owns s p
  ph   : (portAt s p).ph = .wr
  hop  : currentOp s p = some (.rmw a j v)
  tmp  : (portAt s p).tmp = some x

/-- Two states that the owner of the gate sees alike. -/
structure SameForOwner (s s' : State) (p : Port) : Prop where
  gate    : s'.gate = s.gate
  port    : portAt s' p = portAt s p
  cfg     : s'.cfg = s.cfg
  devaddr : s'.devaddr = s.devaddr

/-- While port `p` owns the gate, a step that records no transfer leaves the gate and the port's record as they were. -/
theorem sameForOwner_of_step {s s' : State} {p : Port} (h : Inv s) (owns : Owns s p) (hs : step s = .next s')
    (quiet : busEvents s'.hist = busEvents s.hist) : SameForOwner s s' p := by
  obtain ⟨locked, rfl⟩ := owns
  obtain ⟨busy, -⟩ := h.owner_busy locked
  obtain ⟨cfg, devaddr⟩ := deviceAddressIsImmutable s s' hs
  have hdev := devaddr (refcnt_ne_zero_of_live h (h.busy_live _ busy))
  have other : ∀ {q}, (portAt s q).busy = false → s.gate.owner ≠ q := fun idle e => by
    rw [e, idle] at busy
    cases busy
  cases stepKind_of_step hs with
  | environment same _ transfers wf =>
    obtain ⟨-, -, -, gate, -, port, -⟩ := same
    exact ⟨gate, portAt_congr _ _ port _, cfg, hdev⟩
  | rejected q cw st v mp idle hs => exact ⟨hs ▸ rfl, hs ▸ rfl, cfg, hdev⟩
  | completed i q cw mp idle cls alive nil hs =>
    exact ⟨by simp [hs], portAt_congr _ _ (by simp [hs]) _, cfg, hdev⟩
  | accepted i q cw mp idle hd cls live ne hs =>
    exact ⟨hs ▸ rfl, hs ▸ portAt_setPort_ne _ q _ _ (other idle), cfg, hdev⟩
  | waited q mp busy hs => exact ⟨hs ▸ rfl, hs ▸ rfl, cfg, hdev⟩
  | acquired i q op mp busy ph hd free hop hs => rw [locked] at free; cases free
  | transferred i q op u mp busy ph hd owns hop tr fin =>
    obtain ⟨e, hist, bus, -⟩ := tr.event
    obtain ⟨-, h' | ⟨rw, h'⟩⟩ := transferEnd_hist (not_lifecycle_of_plan hop) fin <;>
      simp [h', hist, bus] at quiet

theorem betweenHalves_of_sameForOwner {s s' : State} {p : Port} {a x : Byte} {j : BitVec 3} {v : Bool}
    (h : BetweenHalves s p a x j v) (inv : Inv s') (same : SameForOwner s s' p) : BetweenHalves s' p a x j v where
  inv := inv
  owns := by
    obtain ⟨locked, owner⟩ := h.owns
    exact ⟨same.gate ▸ locked, same.gate ▸ owner⟩
  ph := same.port ▸ h.ph
  hop := (currentOp_congr same.cfg same.port).trans h.hop
  tmp := same.port ▸ h.tmp

/-- The one transfer that can be issued between the halves is the write half (R54, R103). -/
theorem issues_betweenHalves {s : State} {p : Port} {a x : Byte} {j : BitVec 3} {v : Bool} {e : Event}
    (h : BetweenHalves s p a x j v) (he : Issues s e) : ∃ r, e = .busW p s.devaddr [a, merge x j v] r := by
  obtain ⟨-, ⟨-, rfl⟩, ph, hop, tmp⟩ := h
  cases he with
  | read q op b r owns busy ph' hop' reads =>
    obtain ⟨-, rfl⟩ := owns
    rw [ph] at ph'
    cases ph'
  | write q op b w r owns busy ph' hop' writes =>
    obtain ⟨-, rfl⟩ := owns
    obtain rfl : MicroOp.rmw a j v = op := Option.some.inj (hop.symm.trans hop')
    obtain hw | ⟨j', v', y, hw, hy, rfl⟩ := writes
    · cases hw
    · cases hw
      obtain rfl : x = y := Option.some.inj (tmp.symm.trans hy)
      exact ⟨r, rfl⟩

/-- Settles O40, by induction on the number of steps: until a transfer is made the port stays between its halves, and the
first that is made is the write half. -/
theorem readModifyWriteIsAdjacent : Obligations.ReadModifyWriteIsAdjacent := by
  unfold Obligations.ReadModifyWriteIsAdjacent
  intro n s t p a x j v inv owns ph hop tmp hrun
  have between : BetweenHalves s p a x j v := ⟨inv, owns, ph, hop, tmp⟩
  clear inv owns ph hop tmp
  induction n generalizing s with
  | zero => exact .inl (run_zero_eq_next.1 hrun ▸ rfl)
  | succ n ih =>
    obtain ⟨u, hs, hrun⟩ := run_succ_eq_next.1 hrun
    obtain quiet | ⟨e, he, one⟩ := step_busEvents hs
    · have same := sameForOwner_of_step between.inv between.owns hs quiet
      rw [← quiet, ← same.devaddr]
      exact ih u hrun (betweenHalves_of_sameForOwner between (inv_step between.inv hs) same)
    · obtain ⟨r, rfl⟩ := issues_betweenHalves between he
      obtain ⟨es, hist⟩ := hist_prefix_of_run hrun
      exact .inr ⟨r, busEvents es, by rw [← hist, busEvents_append, one, List.append_assoc]; rfl⟩

end Sys2Proof.Machine
end

section
/-! The register map under a well-formed configuration: no two banked registers share an address, and no two pins of a bank
share a bit (R41, R43, R8 (a)). -/

namespace Sys2Proof.Machine

open Sys2Proof.Claims

theorem bank_eq_low_iff (q : Pin) : bank q = .low ↔ q.val < 8 := by
  have hdiv : q.val / 8 = 0 ↔ q.val < 8 := Nat.div_eq_zero_iff_lt (by decide)
  simp [bank, hdiv]

theorem bitpos_toNat (q : Pin) : (bitpos q).toNat = q.val % 8 := by
  rw [bitpos, BitVec.toNat_ofNat]
  omega

/-- A pin is known by its bank and its bit (R41). -/
theorem pin_eq_of_bank_bitpos {p q : Pin} (hk : bank p = bank q) (hb : bitpos p = bitpos q) : p = q := by
  have hlow : p.val < 8 ↔ q.val < 8 := by rw [← bank_eq_low_iff, ← bank_eq_low_iff, hk]
  have hp := p.isLt
  have hq := q.isLt
  have hmod : p.val % 8 = q.val % 8 := by rw [← bitpos_toNat, ← bitpos_toNat, hb]
  exact Fin.ext (by omega)

/-- The place of a banked register in the list of all of them. -/
def registerIndex (f : Family) (k : Bank) : Nat := 2 * (familyCode f).toNat + (bankNumber k).toNat

theorem addresses_registerIndex (c : Cfg) (f : Family) (k : Bank) :
    c.addresses[registerIndex f k]? = some (addrOf c f k) := by
  cases f <;> cases k <;> rfl

theorem registerIndex_lt (f : Family) (k : Bank) : registerIndex f k < 16 := by
  have hf := (familyCode f).isLt
  have hk := (bankNumber k).isLt
  unfold registerIndex
  omega

theorem families_familyCode (f : Family) : families[(familyCode f).toNat]? = some f := by
  cases f <;> rfl

theorem bankNumber_injective {k l : Bank} (h : bankNumber k = bankNumber l) : k = l := by
  cases k <;> cases l <;> simp [bankNumber] at h ⊢

theorem registerIndex_injective {f g : Family} {k l : Bank} (h : registerIndex f k = registerIndex g l) :
    f = g ∧ k = l := by
  have hk := (bankNumber k).isLt
  have hl := (bankNumber l).isLt
  unfold registerIndex at h
  have hcode : (familyCode f).toNat = (familyCode g).toNat := by omega
  have hbank : (bankNumber k).toNat = (bankNumber l).toNat := by omega
  refine ⟨Option.some.inj ?_, bankNumber_injective (BitVec.eq_of_toNat_eq hbank)⟩
  rw [← families_familyCode f, ← families_familyCode g, hcode]

/-- R8 (a): `CFG.ADDR` is injective. -/
theorem addrOf_injective {c : Cfg} (hc : c.wf = true) {f g : Family} {k l : Bank}
    (h : addrOf c f k = addrOf c g l) : f = g ∧ k = l := by
  have nodup : c.addresses.Nodup := by
    simp only [Cfg.wf, Cfg.addrWF, Bool.and_eq_true, decide_eq_true_eq] at hc
    exact hc.1.1
  have same : c.addresses[registerIndex f k]? = c.addresses[registerIndex g l]? := by
    rw [addresses_registerIndex, addresses_registerIndex, h]
  exact registerIndex_injective ((List.getElem?_inj (registerIndex_lt f k) nodup).1 same)

theorem addrOf_ne_of_family {c : Cfg} (hc : c.wf = true) {f g : Family} (hfg : f ≠ g) {k l : Bank} :
    addrOf c f k ≠ addrOf c g l :=
  fun h => hfg (addrOf_injective hc h).1

/-- Settles O54: the address tells the family and the bank, and the bit then tells the pin. -/
theorem registerMapIsInjective : Obligations.RegisterMapIsInjective := by
  unfold Obligations.RegisterMapIsInjective
  refine ⟨bank_eq_low_iff, fun c p q f g hc => ⟨fun h => ?_, fun hne h => ?_⟩⟩
  · obtain ⟨haddr, hbit⟩ := Prod.mk.inj h
    obtain ⟨hf, hk⟩ := addrOf_injective hc haddr
    exact ⟨pin_eq_of_bank_bitpos hk hbit, hf⟩
  · obtain ⟨hf, hk⟩ := addrOf_injective hc h
    exact hne.elim (absurd hf) (absurd hk)

end Sys2Proof.Machine
end

section
/-! The reference target RT, one lemma for each of its rules (R62 to R64), and the bits of `merge` (R88). -/

namespace Sys2Proof.Machine

open Sys2Proof.Claims

/-- Bit `k` of a vector made `v`, in the form in which `merge` and `LEVEL` write it. -/
theorem getLsbD_setBit {n : Nat} (x : BitVec n) (k : Nat) (v : Bool) {j : Nat} (hj : j < n) :
    (if v then x ||| (1#n <<< k) else x &&& ~~~(1#n <<< k)).getLsbD j = if j = k then v else x.getLsbD j := by
  have hbit : (1#n <<< k).getLsbD j = decide (j = k) := by
    rw [← BitVec.twoPow_eq, BitVec.getLsbD_twoPow]
    grind
  cases v with
  | true =>
    rw [if_pos rfl, BitVec.getLsbD_or, hbit]
    grind
  | false =>
    rw [if_neg Bool.false_ne_true, BitVec.getLsbD_and, BitVec.getLsbD_not, hbit]
    grind

/-- `merge` replaces the one bit and keeps every other (R88). -/
theorem getLsbD_merge (b : Byte) (i : BitVec 3) (v : Bool) {j : Nat} (hj : j < 8) :
    (merge b i v).getLsbD j = if j = i.toNat then v else b.getLsbD j :=
  getLsbD_setBit b i.toNat v hj

/-! ### Writes and reads (R62, R63) -/

theorem targetWrite_of_fail {t : Target} {n : Nat} {e : ErrCode} (h : t.fail.lookup n = some e) (dev : DevAddr)
    (a v : Byte) : targetWrite t n dev a v = (.err e, t) := by
  simp [targetWrite, h]

theorem targetRead_of_fail {t : Target} {n : Nat} {e : ErrCode} (h : t.fail.lookup n = some e) (c : Cfg)
    (dev : DevAddr) (a : Byte) : targetRead c t n dev a = (.err e, t) := by
  simp [targetRead, h]

theorem targetWrite_of_other_device {t : Target} {n : Nat} {dev : DevAddr} (h : t.fail.lookup n = none)
    (hdev : dev ≠ t.dev) (a v : Byte) : targetWrite t n dev a v = (.err 0x01, t) := by
  simp [targetWrite, h, hdev]

theorem targetRead_of_other_device {t : Target} {n : Nat} {dev : DevAddr} (h : t.fail.lookup n = none)
    (hdev : dev ≠ t.dev) (c : Cfg) (a : Byte) : targetRead c t n dev a = (.err 0x01, t) := by
  simp [targetRead, h, hdev]

theorem targetWrite_ok {t : Target} {n : Nat} {dev : DevAddr} (h : t.fail.lookup n = none) (hdev : dev = t.dev)
    (a v : Byte) : targetWrite t n dev a v = (.ok, targetSetReg t a v) := by
  simp [targetWrite, h, hdev]

theorem targetRead_ok {t : Target} {n : Nat} {dev : DevAddr} (h : t.fail.lookup n = none) (hdev : dev = t.dev)
    (c : Cfg) (a : Byte) : targetRead c t n dev a = (.ok (targetReadReg c t a).1, (targetReadReg c t a).2) := by
  simp [targetRead, h, hdev]

/-- A written register holds the byte, every other what it held, and the rest of RT is as it was (R62, R63 (b)). -/
theorem targetSetReg_spec {t : Target} (hwf : Memory.wf t.reg = true) (a v : Byte) :
    targetReg (targetSetReg t a v) a = v ∧ (∀ x, x ≠ a → targetReg (targetSetReg t a v) x = targetReg t x) ∧
      targetSetReg t a v = { t with reg := (targetSetReg t a v).reg } :=
  ⟨targetReg_targetSetReg_self t a v hwf, fun x hx => targetReg_targetSetReg_ne t a x v hwf hx, rfl⟩

/-- A read of a data register gives latches and levels and changes nothing (R63 (a)). -/
theorem targetReadReg_data {c : Cfg} (hc : c.wf = true) (t : Target) (k : Bank) :
    targetReadReg c t (addrOf c .data k) = (dataRead c t k, t) := by
  cases k with
  | low => simp [targetReadReg]
  | high =>
    have hne : addrOf c .data .high ≠ addrOf c .data .low := fun h => by cases (addrOf_injective hc h).2
    simp [targetReadReg, hne]

/-- A read of a status register gives its byte and clears it (R63 (b)). -/
theorem targetReadReg_intStatus {c : Cfg} (hc : c.wf = true) (t : Target) (k : Bank) :
    targetReadReg c t (addrOf c .intStatus k) =
      (targetReg t (addrOf c .intStatus k), targetSetReg t (addrOf c .intStatus k) 0) := by
  have hne : ∀ l, addrOf c .intStatus k ≠ addrOf c .data l := fun _ => addrOf_ne_of_family hc (by decide)
  cases k <;> simp [targetReadReg, hne]

/-- A read of any other register gives its byte and changes nothing (R63 (c)). -/
theorem targetReadReg_plain {c : Cfg} {a : Byte} (ha : ∀ k, a ≠ addrOf c .data k ∧ a ≠ addrOf c .intStatus k)
    (t : Target) : targetReadReg c t a = (targetReg t a, t) := by
  simp [targetReadReg, ha]

theorem getLsbD_levelByte (t : Target) (k : Bank) {i : Nat} (hi : i < 8) :
    (levelByte t k).getLsbD i = t.level.getLsbD (8 * (bankNumber k).toNat + i) := by
  cases k <;> simp [levelByte, bankNumber, hi]

theorem getLsbD_outputMask (c : Cfg) (t : Target) (k : Bank) {i : Nat} (hi : i < 8) :
    (outputMask c t k).getLsbD i = decide ((targetReg t (addrOf c .dir k)).getLsbD i = c.dirOut) := by
  unfold outputMask
  cases c.dirOut <;> simp [hi]

/-- Bit by bit, a read of a data register gives the latch of an output pin and the level of another (R63 (a)). -/
theorem getLsbD_dataRead (c : Cfg) (t : Target) (k : Bank) {i : Nat} (hi : i < 8) :
    (dataRead c t k).getLsbD i =
      if (targetReg t (addrOf c .dir k)).getLsbD i = c.dirOut then (targetReg t (addrOf c .data k)).getLsbD i
      else t.level.getLsbD (8 * (bankNumber k).toNat + i) := by
  simp only [dataRead, BitVec.getLsbD_or, BitVec.getLsbD_and, BitVec.getLsbD_not, getLsbD_outputMask c t k hi,
    getLsbD_levelByte t k hi]
  by_cases h : (targetReg t (addrOf c .dir k)).getLsbD i = c.dirOut <;>
    simp [-BitVec.getLsbD_eq_getElem, h, hi]

/-- Settles O55, by one lemma for each case of the rules. -/
theorem targetAnswersAsTheRule : Obligations.TargetAnswersAsTheRule := by
  unfold Obligations.TargetAnswersAsTheRule
  intro c t n dev a v hc hwf
  refine ⟨fun e he => ⟨targetWrite_of_fail he dev a v, targetRead_of_fail he c dev a⟩,
    fun hn hdev => ⟨targetWrite_of_other_device hn hdev a v, targetRead_of_other_device hn hdev c a⟩,
    fun hn hdev => ?_⟩
  rw [targetWrite_ok hn hdev, targetRead_ok hn hdev]
  refine ⟨⟨_, rfl, targetSetReg_spec hwf a v⟩, ?_, ?_, fun ha => by rw [targetReadReg_plain ha]⟩
  · rintro k rfl
    rw [targetReadReg_data hc]
    exact ⟨_, rfl, fun i hi => getLsbD_dataRead c t k hi⟩
  · rintro k rfl
    rw [targetReadReg_intStatus hc]
    exact ⟨_, rfl, targetSetReg_spec hwf _ 0⟩

/-! ### Events (R64) -/

/-- `LEVEL` sets the level of its pin and of no other. -/
theorem getLsbD_targetLevel (t : Target) (q : Pin) (v : Bool) (j : Pin) :
    (targetLevel t q v).level.getLsbD j.val = if j = q then v else t.level.getLsbD j.val := by
  have hval : j = q ↔ j.val = q.val := Fin.ext_iff
  simp only [hval]
  exact getLsbD_setBit t.level q.val v j.isLt

/-- `EVENT` of an armed pin writes the status register of its bank with the pin's bit set. -/
theorem targetEvent_of_armed {c : Cfg} {t : Target} {q : Pin}
    (h : (targetReg t (addrOf c .intMask (bank q))).getLsbD (q.val % 8) = c.irqArmed) :
    targetEvent c t q = targetSetReg t (addrOf c .intStatus (bank q))
      (merge (targetReg t (addrOf c .intStatus (bank q))) (bitpos q) true) := by
  rw [targetEvent, bitpos_toNat, if_pos h]

theorem targetEvent_of_unarmed {c : Cfg} {t : Target} {q : Pin}
    (h : (targetReg t (addrOf c .intMask (bank q))).getLsbD (q.val % 8) ≠ c.irqArmed) : targetEvent c t q = t := by
  rw [targetEvent, bitpos_toNat, if_neg h]

/-- Settles O56: what each event does to RT, and that as the next move it does no more. -/
theorem targetEventsAsTheRule : Obligations.TargetEventsAsTheRule := by
  unfold Obligations.TargetEventsAsTheRule
  constructor
  · intro c t q v hwf
    refine ⟨⟨_, rfl, getLsbD_targetLevel t q v⟩, fun armed => ?_, targetEvent_of_unarmed⟩
    obtain ⟨self, others, rest⟩ := targetSetReg_spec hwf (addrOf c .intStatus (bank q))
      (merge (targetReg t (addrOf c .intStatus (bank q))) (bitpos q) true)
    refine ⟨_, targetEvent_of_armed armed, rest, others, fun j hj => ?_⟩
    rw [self, getLsbD_merge _ _ _ hj, bitpos_toNat]
  · intro s t q ms ht
    constructor
    · intro v hm
      rw [step_of_level hm, ht, Option.map_some]
    · intro hm
      rw [step_of_event hm, ht, Option.map_some]

end Sys2Proof.Machine
end

section
/-! The records of the ports in the states the statements write out (R100 to R105). -/

namespace Sys2Proof.Machine

open Sys2Proof.Claims

theorem withPort_port_self (s : State) (p : Port) (r : PortState) : (withPort s p r).port[p] = r :=
  portAt_setPort_self s p r

theorem withPort_port_ne (s : State) {p x : Port} (r : PortState) (hx : x ≠ p) : (withPort s p r).port[x] = s.port[x] :=
  portAt_setPort_ne s p x r hx

theorem accepted_port_self (s : State) (p : Port) (cw : CmdWord) :
    (accepted s p cw).port[p] = { s.port[p] with busy := true, cw := cw, k := 0, ph := .wait } :=
  withPort_port_self s p _

theorem granted_port_self (s : State) (p : Port) (ph : Phase) :
    (granted s p ph).port[p] = { s.port[p] with ph := ph } :=
  withPort_port_self s p _

theorem latched_port_self (s : State) (p : Port) (b : Byte) :
    (latched s p b).port[p] = { s.port[p] with tmp := some b, ph := .wr } :=
  withPort_port_self s p _

theorem didRead_port (s : State) (p : Port) (a : Byte) (r : ReadAnswer) (u : Option Target) :
    (didRead s p a r u).port = s.port := rfl

theorem atPhase_accepted (s : State) (p : Port) (cw : CmdWord) : AtPhase (accepted s p cw) p .wait 0 := by
  rw [AtPhase, accepted_port_self]
  exact ⟨rfl, rfl, rfl⟩

theorem atPhase_granted {s : State} {p : Port} {ph : Phase} {k : Nat} (h : AtPhase s p ph k) (ph' : Phase) :
    AtPhase (granted s p ph') p ph' k := by
  obtain ⟨busy, -, hk⟩ := h
  rw [AtPhase, granted_port_self]
  exact ⟨busy, rfl, hk⟩

theorem atPhase_latched {s : State} {p : Port} {ph : Phase} {k : Nat} (h : AtPhase s p ph k) (b : Byte) :
    AtPhase (latched s p b) p .wr k := by
  obtain ⟨busy, -, hk⟩ := h
  rw [AtPhase, latched_port_self]
  exact ⟨busy, rfl, hk⟩

/-! ### The steps of a command, with its moves at the head of the list -/

@[simp] theorem withMoves_withMoves (s : State) (ms ms' : List Move) :
    withMoves (withMoves s ms) ms' = withMoves s ms' := rfl

theorem check_withMoves (i : Instr) (s : State) (ms : List Move) (p : Port) :
    (commandOf i).check (withMoves s ms) p = (commandOf i).check s p := by
  cases i <;> rfl

section
variable {s : State} {p : Port} {i : Instr} {cw : CmdWord} {ms : List Move} {k : Nat} {a b : Byte}
  {rans : Option ReadAnswer} {wans : Option WriteAnswer} {u : Option Target}

theorem step_accepts (hd : decode cw = .ok i) (idle : s.port[p].busy = false)
    (cls : classAdmits (portClass i) p = true) (live : s.live[p] = true) (hchk : (commandOf i).check s p = none)
    (hplan : plan s.cfg p i ≠ []) :
    step (withMoves s (.submit p cw :: ms)) = .next (withMoves (accepted s p cw) ms) := by
  have hnew : ∀ a, i ≠ .new a := by
    rintro a rfl
    exact hplan rfl
  have hf : fetch (withMoves s (.submit p cw :: ms)) = some (p, cw) := by
    have idle' : (portAt s p).busy = false := idle
    rw [fetch_submit rfl, portAt_withMoves, idle']
    rfl
  rw [step_of_fetch hf hd]
  exact exec_accepts rfl idle cls live hnew (by rw [check_withMoves, check_withMoves, hchk]) hplan

theorem step_acquires {op : MicroOp} (hd : decode s.port[p].cw = .ok i) (waits : AtPhase s p .wait k)
    (free : s.gate.locked = false) (hop : (plan s.cfg p i)[k]? = some op) :
    step (withMoves s (.acq p :: ms)) = .next (withMoves (granted s p (firstPhase op)) ms) := by
  obtain ⟨busy, ph, rfl⟩ := waits
  have hf : fetch (withMoves s (.acq p :: ms)) = some (p, s.port[p].cw) := by rw [fetch_acq rfl]; exact if_pos busy
  rw [step_of_fetch hf hd]
  exact exec_acquires rfl busy ph free hop

theorem step_read_half {j : BitVec 3} {v : Bool} (hd : decode s.port[p].cw = .ok i) (reads : AtPhase s p .rd k)
    (owns : Owns s p) (hop : (plan s.cfg p i)[k]? = some (.rmw a j v)) (hr : readReply s a rans = (.ok b, u)) :
    step (withMoves s (.busRd p rans :: ms)) = .next (withMoves (latched (didRead s p a (.ok b) u) p b) ms) := by
  have hf : fetch (withMoves s (.busRd p rans :: ms)) = some (p, s.port[p].cw) := by
    rw [fetch_busRd rfl]; exact if_pos reads.1
  rw [step_of_fetch hf hd]
  exact (exec_read_half (s := withMoves s _) rfl reads owns hop).1 b u hr

theorem step_read_ends (hd : decode s.port[p].cw = .ok i) (reads : AtPhase s p .rd 0) (owns : Owns s p)
    (hplan : plan s.cfg p i = [.read a]) (heff : ∀ t, (commandOf i).effect t p = t)
    (hr : readReply s a rans = (.ok b, u)) :
    step (withMoves s (.busRd p rans :: ms)) =
      .next (withMoves (answered (ended (didRead s p a (.ok b) u) p) p s.port[p].cw 0 ((commandOf i).value p b)) ms) := by
  have hf : fetch (withMoves s (.busRd p rans :: ms)) = some (p, s.port[p].cw) := by
    rw [fetch_busRd rfl]; exact if_pos reads.1
  rw [step_of_fetch hf hd]
  exact (exec_read_ends (s := withMoves s _) rfl reads owns hplan heff).1 b u hr

/-- BUS_WR of the write half and ADVANCE (R103 (b), R104). -/
theorem step_write_half {j : BitVec 3} {v : Bool} (hc : s.cfg.wf = true) (hd : decode s.port[p].cw = .ok i)
    (writes : AtPhase s p .wr k) (owns : Owns s p) (hop : (plan s.cfg p i)[k]? = some (.rmw a j v))
    (tmp : s.port[p].tmp = some b) (hw : writeReply s a (merge b j v) wans = (.ok, u)) :
    ∃ s', AdvancedTo i p 0 (didWrite s p a (merge b j v) .ok u) s' ∧
      step (withMoves s (.busWr p wans :: ms)) = .next (withMoves s' ms) := by
  obtain ⟨busy, ph, hk⟩ := writes
  have hlt : k < (plan s.cfg p i).length := (List.getElem?_eq_some_iff.1 hop).1
  obtain ⟨s', adv, next⟩ := advance_advancedTo (i := i) (p := p) (v := 0) (s := didWrite s p a (merge b j v) .ok u)
    (ms := ms) hc (hk ▸ hlt)
  refine ⟨s', adv, ?_⟩
  have may : mayTransfer (withMoves s ms) p .wr = true := mayTransfer_of_phase (k := k) ⟨busy, ph, hk⟩ owns
  have hk' : (portAt s p).k.val = k := hk
  have tmp' : (portAt s p).tmp = some b := tmp
  have done : afterWrite (withMoves s ms) p a (merge b j v) wans =
      withMoves (didWrite s p a (merge b j v) .ok u) ms := by
    rw [afterWrite, writeReply_withMoves, hw]
    rfl
  rw [step_of_busWr (withMoves_moves s _) busy hd, withMoves_withMoves, ← next, ← done, busWrite, if_pos may]
  simp [hk', hop, tmp', finishWrite, hw]

end

end Sys2Proof.Machine
end
section
/-! Runs of a read command from SUBMIT to its response, and of a read-modify-write from its acquisition to ADVANCE, with
any answers and from any state where the gate is free (R85, R87, R102 to R104). -/

namespace Sys2Proof.Machine

open Sys2Proof.Claims

/-- Port `p` has answered the word `cw` with `val`, after the read of `b` at `a` that is all of its plan. -/
def readAnswered (s : State) (p : Port) (cw : CmdWord) (a b : Byte) (u : Option Target) (val : Byte) : State :=
  { s with
    port := s.port.set p { busy := false, cw := cw, k := 0, ph := .rd, tmp := none }
    gate := { locked := false, owner := p }
    hist := s.hist ++ [.busWtr p s.devaddr [a] (.ok b), .resp p cw (0#4 ++ val)]
    env  := { s.env with target := u, transfers := s.env.transfers + 1 } }

/-- Port `p` has made both transfers of a read-modify-write at `a`, before ADVANCE. -/
def rmwWritten (s : State) (p : Port) (a b w : Byte) (u : Option Target) : State :=
  { s with
    port := s.port.set p { s.port[p] with ph := .wr, tmp := some b }
    gate := { locked := true, owner := p }
    hist := s.hist ++ [.busWtr p s.devaddr [a] (.ok b), .busW p s.devaddr [a, w] .ok]
    env  := { s.env with target := u, transfers := s.env.transfers + 2 } }

/-- Port `p` has answered the word `cw` with `OK`, after the read-modify-write at `a` that is all of its plan. -/
def rmwAnswered (s : State) (p : Port) (cw : CmdWord) (a b w : Byte) (u : Option Target) : State :=
  { s with
    port := s.port.set p { busy := false, cw := cw, k := 0, ph := .wr, tmp := none }
    gate := { locked := false, owner := p }
    hist := s.hist ++ [.busWtr p s.devaddr [a] (.ok b), .busW p s.devaddr [a, w] .ok, .resp p cw (0#4 ++ 0#8)]
    env  := { s.env with target := u, transfers := s.env.transfers + 2 } }

theorem readAnswered_eq (s : State) (p : Port) (cw : CmdWord) (a b : Byte) (u : Option Target) (val : Byte) :
    answered (ended (didRead (granted (accepted s p cw) p .rd) p a (.ok b) u) p) p cw 0 val =
      readAnswered s p cw a b u val := by
  simp [answered, ended, didRead, granted, accepted, withPort, readAnswered]

theorem rmwWritten_eq (s : State) (p : Port) (a b w : Byte) (u u' : Option Target) :
    didWrite (latched (didRead (granted s p .rd) p a (.ok b) u) p b) p a w .ok u' = rmwWritten s p a b w u' := by
  simp [didWrite, latched, didRead, granted, withPort, rmwWritten]

theorem rmwAnswered_eq (s : State) (p : Port) (cw : CmdWord) (a b w : Byte) (u : Option Target) :
    answered (ended (rmwWritten (accepted s p cw) p a b w u) p) p cw 0 0 = rmwAnswered s p cw a b w u := by
  simp [answered, ended, rmwWritten, accepted, withPort, rmwAnswered]

/-- A read command makes no port busy: its own is idle again, the others are as they were. -/
theorem readAnswered_idle {s : State} {p x : Port} {cw : CmdWord} {a b : Byte} {u : Option Target} {val : Byte}
    (idle : s.port[x].busy = false) : (readAnswered s p cw a b u val).port[x].busy = false := by
  by_cases hx : x = p
  · subst hx
    exact congrArg PortState.busy (withPort_port_self s x _)
  · exact (congrArg PortState.busy (withPort_port_ne s _ hx)).trans idle

section
variable {s : State} {p : Port} {i : Instr} {ms : List Move} {a b : Byte} {rans : Option ReadAnswer}
  {wans : Option WriteAnswer} {u u' : Option Target}

/-- A command whose plan is one read, from SUBMIT to its response. -/
theorem run_read_command {cw : CmdWord} (hd : decode cw = .ok i) (idle : s.port[p].busy = false)
    (cls : classAdmits (portClass i) p = true) (live : s.live[p] = true) (free : s.gate.locked = false)
    (hchk : (commandOf i).check s p = none) (heff : ∀ t, (commandOf i).effect t p = t)
    (hplan : plan s.cfg p i = [.read a]) (hr : readReply s a rans = (.ok b, u)) (n : Nat) :
    Host.Core.run core (n + 3) (withMoves s (.submit p cw :: .acq p :: .busRd p rans :: ms)) =
      Host.Core.run core n (withMoves (readAnswered s p cw a b u ((commandOf i).value p b)) ms) := by
  have hop : (plan s.cfg p i)[0]? = some (MicroOp.read a) := by rw [hplan]; rfl
  have hcw : (accepted s p cw).port[p].cw = cw := by rw [accepted_port_self]
  have hcw' : (granted (accepted s p cw) p .rd).port[p].cw = cw := by rw [granted_port_self, hcw]
  have waits := atPhase_accepted s p cw
  have ends := step_read_ends (s := granted (accepted s p cw) p .rd) (p := p) (ms := ms) (by rw [hcw', hd])
    (atPhase_granted waits .rd) ⟨rfl, rfl⟩ hplan heff hr
  rw [hcw', readAnswered_eq] at ends
  exact (run_of_step (step_accepts hd idle cls live hchk (by simp [hplan]))).trans
    ((run_of_step (step_acquires (by rw [hcw, hd]) waits free hop)).trans (run_of_step ends))

/-- A read-modify-write, from its acquisition to ADVANCE. -/
theorem run_rmw {k : Nat} {j : BitVec 3} {v : Bool} (hc : s.cfg.wf = true) (hd : decode s.port[p].cw = .ok i)
    (waits : AtPhase s p .wait k) (free : s.gate.locked = false) (hop : (plan s.cfg p i)[k]? = some (.rmw a j v))
    (hr : readReply s a rans = (.ok b, u))
    (hw : writeReply (didRead s p a (.ok b) u) a (merge b j v) wans = (.ok, u')) (n : Nat) :
    ∃ s', AdvancedTo i p 0 (rmwWritten s p a b (merge b j v) u') s' ∧
      Host.Core.run core (n + 3) (withMoves s (.acq p :: .busRd p rans :: .busWr p wans :: ms)) =
        Host.Core.run core n (withMoves s' ms) := by
  have hgrant : decode (granted s p .rd).port[p].cw = .ok i := by rw [granted_port_self, hd]
  have reads := atPhase_granted waits .rd
  obtain ⟨s', adv, hs'⟩ := step_write_half (s := latched (didRead (granted s p .rd) p a (.ok b) u) p b) (p := p)
    (ms := ms) hc (by rw [latched_port_self, didRead_port, hgrant]) (atPhase_latched reads b) ⟨rfl, rfl⟩ hop
    (by rw [latched_port_self]) hw
  rw [rmwWritten_eq] at adv
  exact ⟨s', adv, (run_of_step (step_acquires hd waits free hop)).trans
    ((run_of_step (step_read_half hgrant reads ⟨rfl, rfl⟩ hop hr)).trans (run_of_step hs'))⟩

/-- A command whose plan is one read-modify-write and that installs no tag, from SUBMIT to its response. -/
theorem run_rmw_command {cw : CmdWord} {j : BitVec 3} {v : Bool} (hc : s.cfg.wf = true) (hd : decode cw = .ok i)
    (idle : s.port[p].busy = false) (cls : classAdmits (portClass i) p = true) (live : s.live[p] = true)
    (free : s.gate.locked = false) (hchk : (commandOf i).check s p = none) (hinst : installs i = none)
    (hplan : plan s.cfg p i = [.rmw a j v]) (hr : readReply s a rans = (.ok b, u))
    (hw : writeReply (didRead s p a (.ok b) u) a (merge b j v) wans = (.ok, u')) (n : Nat) :
    Host.Core.run core (n + 4) (withMoves s (.submit p cw :: .acq p :: .busRd p rans :: .busWr p wans :: ms)) =
      Host.Core.run core n (withMoves (rmwAnswered s p cw a b (merge b j v) u') ms) := by
  have hop : (plan s.cfg p i)[0]? = some (MicroOp.rmw a j v) := by rw [hplan]; rfl
  have hcw : (accepted s p cw).port[p].cw = cw := by rw [accepted_port_self]
  obtain ⟨s', adv, hrun⟩ := run_rmw (s := accepted s p cw) (ms := ms) hc (by rw [hcw, hd]) (atPhase_accepted s p cw)
    free hop hr hw n
  have single : (plan (rmwWritten (accepted s p cw) p a b (merge b j v) u').cfg p i).length = 1 :=
    congrArg List.length hplan
  have hcw' : (rmwWritten (accepted s p cw) p a b (merge b j v) u').port[p].cw = cw :=
    (congrArg PortState.cw (withPort_port_self (accepted s p cw) p _)).trans hcw
  rw [AdvancedTo, single, if_neg (by omega), hinst, hcw', rmwAnswered_eq] at adv
  subst adv
  exact (run_of_step (step_accepts hd idle cls live hchk (by simp [hplan]))).trans hrun

/-- ADVANCE leaves the gate free and changes no other port (R104). -/
theorem advancedTo_frame {val : Byte} {s' : State} (h : AdvancedTo i p val s s') :
    s'.cfg = s.cfg ∧ s'.devaddr = s.devaddr ∧ s'.env = s.env ∧ s'.gate.locked = false ∧
      ∀ x, x ≠ p → s'.port[x] = s.port[x] := by
  unfold AdvancedTo at h
  split at h
  · obtain ⟨k, -, rfl⟩ := h
    exact ⟨rfl, rfl, rfl, rfl, fun x hx => withPort_port_ne s _ hx⟩
  · split at h
    · obtain ⟨q, -, rfl⟩ := h
      exact ⟨rfl, rfl, rfl, rfl, fun x hx => withPort_port_ne s _ hx⟩
    · subst h
      exact ⟨rfl, rfl, rfl, rfl, fun x hx => withPort_port_ne s _ hx⟩

end

end Sys2Proof.Machine
end

section
/-! Runs against the reference target where every transfer succeeds (R57, R62, R63, R131, R138). -/

namespace Sys2Proof.Machine

open Sys2Proof.Claims

/-- The reference target is attached, is the device the block addresses, and fails no transfer (R61). -/
structure Answering (s : State) (t : Target) : Prop where
  target : s.env.target = some t
  dev    : t.dev = s.devaddr
  fail   : t.fail = []

section
variable {s : State} {t : Target}

theorem lookup_of_answering (h : Answering s t) (n : Nat) : t.fail.lookup n = none := by
  rw [h.fail]
  rfl

theorem readReply_of_answering (h : Answering s t) (a : Byte) :
    readReply s a none = (.ok (targetReadReg s.cfg t a).1, some (targetReadReg s.cfg t a).2) := by
  rw [readReply_of_attached h.target, targetRead_ok (lookup_of_answering h _) h.dev.symm]

theorem writeReply_of_answering (h : Answering s t) (a v : Byte) :
    writeReply s a v none = (.ok, some (targetSetReg t a v)) := by
  rw [writeReply_of_attached h.target, targetWrite_ok (lookup_of_answering h _) h.dev.symm]

/-- A state with the same device address and a register of the target written still has an answering target. -/
theorem answering_of_setReg {s' : State} {a v : Byte} (h : Answering s t)
    (target : s'.env.target = some (targetSetReg t a v)) (dev : s'.devaddr = s.devaddr) :
    Answering s' (targetSetReg t a v) :=
  ⟨target, by rw [dev]; exact h.dev, h.fail⟩

/-- A read that does not change the target leaves it answering. -/
theorem answering_didRead (h : Answering s t) (p : Port) (a : Byte) (r : ReadAnswer) :
    Answering (didRead s p a r (some t)) t :=
  ⟨rfl, h.dev, h.fail⟩

/-- A waiting read-modify-write at a register whose read changes nothing writes the bit, and leaves the gate free and every
other port as it was (R57). -/
theorem run_rmw_at_target {p : Port} {a : Byte} {j : BitVec 3} {v : Bool} {ms : List Move} (hc : s.cfg.wf = true)
    (h : Answering s t) (busy : s.port[p].busy = true) (ph : s.port[p].ph = .wait) (free : s.gate.locked = false)
    (hop : currentOp s p = some (.rmw a j v)) (keeps : (targetReadReg s.cfg t a).2 = t) (n : Nat) :
    ∃ s', Host.Core.run core (n + 3) (withMoves s (.acq p :: .busRd p none :: .busWr p none :: ms)) =
        Host.Core.run core n (withMoves s' ms) ∧
      Answering s' (targetSetReg t a (merge (targetReadReg s.cfg t a).1 j v)) ∧ s'.cfg = s.cfg ∧
      s'.gate.locked = false ∧ ∀ x, x ≠ p → s'.port[x] = s.port[x] := by
  obtain ⟨i, hd, hi⟩ := currentOp_decode hop
  have hr := readReply_of_answering h a
  rw [keeps] at hr
  have hw := writeReply_of_answering (answering_didRead h p a (.ok (targetReadReg s.cfg t a).1)) a
    (merge (targetReadReg s.cfg t a).1 j v)
  obtain ⟨s', adv, hrun⟩ := run_rmw (ms := ms) hc hd ⟨busy, ph, rfl⟩ free hi hr hw n
  obtain ⟨cfg, devaddr, env, gate, port⟩ := advancedTo_frame adv
  refine ⟨s', hrun, answering_of_setReg h (by rw [env]; rfl) devaddr, cfg, gate, fun x hx => ?_⟩
  exact (port x hx).trans (withPort_port_ne s _ hx)

end

/-- Settles O57: the second read-modify-write reads what the first wrote. -/
theorem noUpdateIsLost : Obligations.NoUpdateIsLost := by
  unfold Obligations.NoUpdateIsLost
  intro s t p q a i j v w ms h hpq hij busyp busyq free hp hq ht hdev hfail ha
  have hwf := h.target_wf t ht
  have plain : ∀ r, targetReadReg s.cfg r a = (targetReg r a, r) := targetReadReg_plain ha
  obtain ⟨s₁, run₁, ans₁, cfg₁, gate₁, port₁⟩ := run_rmw_at_target (n := 3)
    (ms := [.acq q, .busRd q none, .busWr q none] ++ ms) h.cfg_wf ⟨ht, hdev, hfail⟩ busyp (wait_of_free h free busyp)
    free hp (by rw [plain])
  have same : s₁.port[q] = s.port[q] := port₁ q hpq.symm
  obtain ⟨s₂, run₂, ans₂, -⟩ := run_rmw_at_target (n := 0) (ms := ms) (cfg₁ ▸ h.cfg_wf) ans₁ (same ▸ busyq)
    (same ▸ wait_of_free h free busyq) gate₁ ((currentOp_congr cfg₁ same).trans hq) (by rw [cfg₁, plain])
  simp only [List.cons_append, List.nil_append]
  refine ⟨_, (run₁.trans run₂).trans (run_zero_eq_next.2 rfl), fun n hn => ?_⟩
  rw [cfg₁, plain, plain, targetReg_targetSetReg_self _ _ _ hwf] at ans₂
  have target : (withMoves s₂ ms).env.target = _ := ans₂.target
  rw [regOf, target, Option.map_some, Option.map_some, targetReg_targetSetReg_self _ _ _ (targetSetReg_wf t _ _ hwf),
    getLsbD_merge _ _ _ hn, getLsbD_merge _ _ _ hn]
  have hne : i.toNat ≠ j.toNat := fun e => hij (BitVec.eq_of_toNat_eq e)
  by_cases hi : n = i.toNat
  · rw [if_pos hi, if_pos hi, if_neg (hi ▸ hne)]
  · rw [if_neg hi, if_neg hi]

/-! ### Pin commands -/

/-- Pin `q` answered `IRQ_STATUS` with the flags of its bank, which the read cleared (R50 (b), R137). -/
def statusAnswered (s : State) (t : Target) (q : Pin) : State :=
  readAnswered s (pinPort q) (encode .irqStatus) (addrOf s.cfg .intStatus (bank q))
    (targetReg t (addrOf s.cfg .intStatus (bank q))) (some (targetSetReg t (addrOf s.cfg .intStatus (bank q)) 0))
    (targetReg t (addrOf s.cfg .intStatus (bank q)))

theorem run_irqStatus {s : State} {t : Target} {q : Pin} {ms : List Move} (hc : s.cfg.wf = true) (h : Answering s t)
    (idle : s.port[pinPort q].busy = false) (live : s.live[pinPort q] = true) (free : s.gate.locked = false) (n : Nat) :
    Host.Core.run core (n + 3) (withMoves s
        (.submit (pinPort q) (encode .irqStatus) :: .acq (pinPort q) :: .busRd (pinPort q) none :: ms)) =
      Host.Core.run core n (withMoves (statusAnswered s t q) ms) := by
  have hr := readReply_of_answering h (addrOf s.cfg .intStatus (bank q))
  rw [targetReadReg_intStatus hc] at hr
  exact run_read_command (i := .irqStatus) (by decide) idle (classAdmits_pinPort q) live free rfl (fun _ => rfl)
    (readPlan_pinPort ..) hr n

/-- Settles O59: the first read clears the register that the second reads. -/
theorem secondStatusReadIsClear : Obligations.SecondStatusReadIsClear := by
  unfold Obligations.SecondStatusReadIsClear
  intro s t q r ms h hbank liveq liver idleq idler free ht hdev hfail
  have ans : Answering s t := ⟨ht, hdev, hfail⟩
  have clear :
      targetReg (targetSetReg t (addrOf s.cfg .intStatus (bank q)) 0#8) (addrOf s.cfg .intStatus (bank q)) = 0#8 :=
    targetReg_targetSetReg_self _ _ _ (h.target_wf t ht)
  have run₁ := run_irqStatus (ms := .submit (pinPort r) (encode .irqStatus) :: .acq (pinPort r) ::
    .busRd (pinPort r) none :: ms) h.cfg_wf ans idleq liveq free 3
  have ans₁ : Answering (statusAnswered s t q) _ := answering_of_setReg ans rfl rfl
  have run₂ := run_irqStatus (s := statusAnswered s t q) (q := r) (ms := ms) h.cfg_wf ans₁
    (readAnswered_idle idler) liver rfl 0
  simp only [List.cons_append, List.nil_append]
  refine ⟨_, (run₁.trans run₂).trans (run_zero_eq_next.2 rfl), ?_⟩
  simp [statusAnswered, readAnswered, ← hbank, clear]

/-! ### A level written and read back (R131) -/

/-- `SET_HIGH` for 1, `SET_LOW` for 0. -/
def setCommand (v : Bool) : Instr := if v then .setHigh else .setLow

/-- `IS_HIGH` for 1, `IS_LOW` for 0. -/
def readBackCommand (v : Bool) : Instr := if v then .isHigh else .isLow

/-- RT once bit `bitpos(q)` of the data register of pin `q` was written `v` by a read-modify-write. -/
def levelWritten (c : Cfg) (t : Target) (q : Pin) (v : Bool) : Target :=
  targetSetReg t (addrOf c .data (bank q)) (merge (dataRead c t (bank q)) (bitpos q) v)

/-- Pin `q` has answered `SET_HIGH` or `SET_LOW`. -/
def levelSet (s : State) (t : Target) (q : Pin) (v : Bool) : State :=
  rmwAnswered s (pinPort q) (encode (setCommand v)) (addrOf s.cfg .data (bank q)) (dataRead s.cfg t (bank q))
    (merge (dataRead s.cfg t (bank q)) (bitpos q) v) (some (levelWritten s.cfg t q v))

/-- Pin `q` has answered `IS_HIGH` or `IS_LOW`. -/
def levelTested (s : State) (t : Target) (q : Pin) (v : Bool) : State :=
  readAnswered s (pinPort q) (encode (readBackCommand v)) (addrOf s.cfg .data (bank q)) (dataRead s.cfg t (bank q))
    (some t) (bitValue ((dataRead s.cfg t (bank q)).getLsbD (q.val % 8) == v))

theorem outputModeCheck_of_output {s : State} {q : Pin} (h : s.mode[q] = .output ∨ s.mode[q] = .outputOpenDrain) :
    outputModeCheck s (pinPort q) = none := by
  have h' : modeAt s q = .output ∨ modeAt s q = .outputOpenDrain := h
  simp [outputModeCheck, pinOf_pinPort, h']

/-- A pin that is an output at the target reads as the level written to it (R63 (a)). -/
theorem getLsbD_dataRead_levelWritten {c : Cfg} {t : Target} {q : Pin} (hc : c.wf = true)
    (hwf : Memory.wf t.reg = true) (out : (targetReg t (addrOf c .dir (bank q))).getLsbD (q.val % 8) = c.dirOut)
    (v : Bool) : (dataRead c (levelWritten c t q v) (bank q)).getLsbD (q.val % 8) = v := by
  have hbit : q.val % 8 < 8 := Nat.mod_lt _ (by decide)
  have hne : addrOf c .dir (bank q) ≠ addrOf c .data (bank q) := addrOf_ne_of_family hc (by decide)
  rw [getLsbD_dataRead _ _ _ hbit, levelWritten, targetReg_targetSetReg_ne _ _ _ _ hwf hne, if_pos out,
    targetReg_targetSetReg_self _ _ _ hwf, getLsbD_merge _ _ _ hbit, if_pos (bitpos_toNat q).symm]

section
variable {s : State} {t : Target} {q : Pin} {ms : List Move}

/-- `SET_HIGH` or `SET_LOW` on an output against RT writes the byte read with the pin's bit replaced (R125, R126). -/
theorem run_setCommand (hc : s.cfg.wf = true) (h : Answering s t) (idle : s.port[pinPort q].busy = false)
    (live : s.live[pinPort q] = true) (free : s.gate.locked = false)
    (output : s.mode[q] = .output ∨ s.mode[q] = .outputOpenDrain) (v : Bool) (n : Nat) :
    Host.Core.run core (n + 4) (withMoves s (.submit (pinPort q) (encode (setCommand v)) :: .acq (pinPort q) ::
        .busRd (pinPort q) none :: .busWr (pinPort q) none :: ms)) =
      Host.Core.run core n (withMoves (levelSet s t q v) ms) := by
  have hr := readReply_of_answering h (addrOf s.cfg .data (bank q))
  rw [targetReadReg_data hc] at hr
  have hw := writeReply_of_answering (answering_didRead h (pinPort q) (addrOf s.cfg .data (bank q))
    (.ok (dataRead s.cfg t (bank q)))) (addrOf s.cfg .data (bank q))
    (merge (dataRead s.cfg t (bank q)) (bitpos q) v)
  have hchk := outputModeCheck_of_output output
  have hplan : plan s.cfg (pinPort q) (setCommand v) = [.rmw (addrOf s.cfg .data (bank q)) (bitpos q) v] := by
    cases v <;> exact rmwPlan_pinPort ..
  cases v with
  | true =>
    exact run_rmw_command (i := .setHigh) hc (by decide) idle (classAdmits_pinPort q) live free hchk rfl hplan hr hw n
  | false =>
    exact run_rmw_command (i := .setLow) hc (by decide) idle (classAdmits_pinPort q) live free hchk rfl hplan hr hw n

/-- `IS_HIGH` or `IS_LOW` against RT answers whether the pin's bit of the data register reads as that level (R127, R128). -/
theorem run_readBackCommand (hc : s.cfg.wf = true) (h : Answering s t) (idle : s.port[pinPort q].busy = false)
    (live : s.live[pinPort q] = true) (free : s.gate.locked = false) (v : Bool) (n : Nat) :
    Host.Core.run core (n + 3) (withMoves s (.submit (pinPort q) (encode (readBackCommand v)) :: .acq (pinPort q) ::
        .busRd (pinPort q) none :: ms)) =
      Host.Core.run core n (withMoves (levelTested s t q v) ms) := by
  have hr := readReply_of_answering h (addrOf s.cfg .data (bank q))
  rw [targetReadReg_data hc] at hr
  have hplan : plan s.cfg (pinPort q) (readBackCommand v) = [.read (addrOf s.cfg .data (bank q))] := by
    cases v <;> exact readPlan_pinPort ..
  have hval : (commandOf (readBackCommand v)).value (pinPort q) (dataRead s.cfg t (bank q)) =
      bitValue ((dataRead s.cfg t (bank q)).getLsbD (q.val % 8) == v) := by
    cases v <;> simp [readBackCommand, commandOf, pinHigh, pinLow, pinOf_pinPort, bitpos_toNat]
  rw [levelTested, ← hval]
  cases v with
  | true =>
    exact run_read_command (i := .isHigh) (by decide) idle (classAdmits_pinPort q) live free rfl (fun _ => rfl) hplan
      hr n
  | false =>
    exact run_read_command (i := .isLow) (by decide) idle (classAdmits_pinPort q) live free rfl (fun _ => rfl) hplan
      hr n

end

/-- Settles O58: the second command reads the register that the first wrote, where the pin's bit is the level. -/
theorem outputRoundTrip : Obligations.OutputRoundTrip := by
  unfold Obligations.OutputRoundTrip
  intro s t q v ms h live idle free output ht hdev hfail out
  have ans : Answering s t := ⟨ht, hdev, hfail⟩
  have run₁ := run_setCommand (ms := .submit (pinPort q) (encode (readBackCommand v)) :: .acq (pinPort q) ::
    .busRd (pinPort q) none :: ms) h.cfg_wf ans idle live free output v 3
  have ans₁ : Answering (levelSet s t q v) (levelWritten s.cfg t q v) := answering_of_setReg ans rfl rfl
  have idle₁ : (levelSet s t q v).port[pinPort q].busy = false :=
    congrArg PortState.busy (withPort_port_self s (pinPort q) _)
  have run₂ := run_readBackCommand (s := levelSet s t q v) (ms := ms) h.cfg_wf ans₁ idle₁ live rfl v 0
  have level : (dataRead s.cfg (levelWritten s.cfg t q v) (bank q)).getLsbD (q.val % 8) = v :=
    getLsbD_dataRead_levelWritten h.cfg_wf (h.target_wf t ht) out v
  have cfg : (levelSet s t q v).cfg = s.cfg := rfl
  refine ⟨_, (run₁.trans run₂).trans (run_zero_eq_next.2 rfl), ?_⟩
  simp [levelTested, readAnswered, cfg, level, bitValue, readBackCommand]

end Sys2Proof.Machine
end

section
/-! The decoder said once, in terms of the tables of opcodes and formats (R66, R68), and from it the round trip of words and
commands (R65 to R67) and the two kinds of word that are no command (R69, R70). -/

namespace Sys2Proof

/-! ### The opcodes (R68, R69) -/

/-- A command for each of the 18 assigned opcodes (R68). -/
def sampleCommands : List Instr :=
  [.new 0, .split, .drop, .rdreg 0, .wrreg 0 0, .modbit 0 0 false, .intoInput, .intoInputPu, .intoInputPd, .intoOutput,
    .intoOutputOd, .setLow, .setHigh, .isLow, .isHigh, .irqDisarm, .irqArm, .irqStatus]

/-- The 14 unassigned opcodes (R69). -/
def unassignedOpcodes : List Nat := [0, 4, 5, 6, 7, 11, 12, 13, 14, 15, 16, 22, 23, 31]

/-- The opcodes of a format (R66). -/
def opcodesOfFormat : Format → List Nat
  | .z   => [2, 3, 17, 18, 19, 20, 21, 24, 25, 26, 27, 28, 29, 30]
  | .a   => [1, 8]
  | .ad  => [9]
  | .abv => [10]

theorem exists_opcodeOf_of_format (f : Format) {op : BitVec 5} (h : op.toNat ∈ opcodesOfFormat f) :
    ∃ i, opcodeOf i = op ∧ formatOf i = f := by
  have table : ∀ op : BitVec 5, op.toNat ∈ opcodesOfFormat f → ∃ i ∈ sampleCommands, opcodeOf i = op ∧ formatOf i = f := by
    cases f <;> decide
  obtain ⟨i, -, hi⟩ := table op h
  exact ⟨i, hi⟩

/-- An opcode that is not one of the 14 is that of a command. -/
theorem exists_opcodeOf {op : BitVec 5} (h : op.toNat ∉ unassignedOpcodes) : ∃ i, opcodeOf i = op := by
  have table : ∀ op : BitVec 5, op.toNat ∉ unassignedOpcodes → ∃ i ∈ sampleCommands, opcodeOf i = op := by decide
  obtain ⟨i, -, hi⟩ := table op h
  exact ⟨i, hi⟩

/-! ### The decoder, by the opcode of the word -/

/-- The command with its operands read from the fields of a word (R66). -/
def withFields (cw : CmdWord) : Instr → Instr
  | .new _        => .new (fieldA cw)
  | .rdreg _      => .rdreg (fieldA cw)
  | .wrreg _ _    => .wrreg (fieldA cw) (fieldD cw)
  | .modbit _ _ _ => .modbit (fieldA cw) (fieldBit cw) ((fieldD cw).getLsbD 0)
  | i             => i

/-- A word with the opcode of `i` is read in the format of `i` (R66, R68). -/
theorem decode_of_opcode {cw : CmdWord} {i : Instr} (h : fieldOp cw = opcodeOf i) :
    decode cw = ofFormat (formatOf i) cw (withFields cw i) := by
  cases i <;> simp [decode, h, opcodeOf, formatOf, withFields]

/-- R69. -/
theorem decode_of_unassigned {cw : CmdWord} (h : (fieldOp cw).toNat ∈ unassignedOpcodes) :
    decode cw = .error (.unassignedOpcode (fieldOp cw)) := by
  simp only [unassignedOpcodes, List.mem_cons, List.not_mem_nil, or_false] at h
  rcases h with h | h | h | h | h | h | h | h | h | h | h | h | h | h <;> simp [decode, h]

/-- R70. -/
theorem decode_of_reserved {cw : CmdWord} {i : Instr} (h : fieldOp cw = opcodeOf i)
    (hz : mustBeZeroHolds (formatOf i) cw = false) : decode cw = .error (.mustBeZero (fieldOp cw)) := by
  rw [decode_of_opcode h, ofFormat, if_neg (by simp [hz])]

/-- What a word that decodes is: it has the opcode of a command, zero in the must-be-zero fields of the command's format,
and decodes to the command with the operands of its own fields. -/
theorem decode_eq_ok {cw : CmdWord} {i : Instr} (h : decode cw = .ok i) :
    ∃ j, fieldOp cw = opcodeOf j ∧ mustBeZeroHolds (formatOf j) cw = true ∧ i = withFields cw j := by
  have assigned : (fieldOp cw).toNat ∉ unassignedOpcodes := fun hu => by
    rw [decode_of_unassigned hu] at h; cases h
  obtain ⟨j, hj⟩ := exists_opcodeOf assigned
  rw [decode_of_opcode hj.symm, ofFormat] at h
  split at h
  · next hz => cases h; exact ⟨j, hj.symm, hz, rfl⟩
  · cases h

/-! ### The round trip (R65 to R67) -/

@[simp] theorem withFields_encode (i : Instr) : withFields (encode i) i = i := by
  cases i with
  | modbit a b v => cases v <;> simp [withFields, encode]
  | _ => simp [withFields, encode]

/-- A byte whose top seven bits are zero is its lowest bit. -/
theorem byte_eq_lowBit {d : Byte} (h : d.extractLsb' 1 7 = 0) : (if d.getLsbD 0 then 1 else 0) = d := by
  apply BitVec.eq_of_getLsbD_eq
  intro i hi
  cases i with
  | zero => cases d.getLsbD 0 <;> rfl
  | succ i =>
    have hi7 : i < 7 := by omega
    have hbit : d.getLsbD (i + 1) = false := by
      simpa [Nat.add_comm 1 i, hi7] using congrArg (BitVec.getLsbD · i) h
    rw [hbit]
    cases d.getLsbD 0 <;> simp

/-- The fields of a word that its format does not require to be zero are the operands of its command, so they make up the
word (R66). -/
theorem encode_withFields {cw : CmdWord} {i : Instr} (h : fieldOp cw = opcodeOf i)
    (hz : mustBeZeroHolds (formatOf i) cw = true) : encode (withFields cw i) = cw := by
  calc
    encode (withFields cw i) = wordOf (fieldOp cw) (fieldBit cw) (fieldA cw) (fieldD cw) := by
      rw [h]
      cases i with
      | modbit a b v =>
        have hd : (fieldD cw).extractLsb' 1 7 = 0 := by simpa [formatOf, mustBeZeroHolds] using hz
        rw [withFields, encode, byte_eq_lowBit hd, opcodeOf]
      | _ => simp_all [withFields, encode, formatOf, mustBeZeroHolds, opcodeOf]
    _ = cw := wordOf_fields cw

/-- Settles O1: the word has the command's opcode and its must-be-zero fields are zero (`EncodeFits`), so it decodes to the
command with the operands of its fields, and those are the command's own. -/
theorem decodeEncodeRoundTrip : Obligations.DecodeEncodeRoundTrip := by
  unfold Obligations.DecodeEncodeRoundTrip
  intro i
  obtain ⟨hop, hz⟩ := Laws.EncodeFits.statement_of i
  rw [decode_of_opcode hop, ofFormat, if_pos hz, withFields_encode]

/-- Settles O2: what decodes has the operands of its fields, and every other field is zero. -/
theorem decodedWordIsItsEncoding : Obligations.DecodedWordIsItsEncoding := by
  unfold Obligations.DecodedWordIsItsEncoding
  intro cw i h
  obtain ⟨j, hop, hz, rfl⟩ := decode_eq_ok h
  exact encode_withFields hop hz

theorem decode_eq_ok_iff (cw : CmdWord) (i : Instr) : decode cw = .ok i ↔ encode i = cw :=
  ⟨decodedWordIsItsEncoding cw i, fun h => h ▸ decodeEncodeRoundTrip i⟩

/-- Settles O3: each word is the word of its command. -/
theorem sampleWordsDecode : Obligations.SampleWordsDecode := by
  unfold Obligations.SampleWordsDecode
  simp only [decode_eq_ok_iff]
  decide

/-- The words with an opcode are all rejected where it is one of the 14, and only there (R69). -/
theorem all_rejected_iff_unassigned (op : BitVec 5) :
    (∀ cw, fieldOp cw = op → ∃ e, decode cw = .error e) ↔ op.toNat ∈ unassignedOpcodes := by
  constructor
  · intro rejected
    by_contra assigned
    obtain ⟨i, hi⟩ := exists_opcodeOf assigned
    obtain ⟨e, he⟩ := rejected (encode i) ((Laws.EncodeFits.statement_of i).1.trans hi)
    rw [decodeEncodeRoundTrip i] at he
    cases he
  · rintro hu cw rfl
    exact ⟨_, decode_of_unassigned hu⟩

end Sys2Proof
end

section
/-! SUBMIT of a word that is no command, and of a command on a port of the wrong class (R69 to R71); the response word that
answers it (R72). -/

namespace Sys2Proof.Machine

open Sys2Proof.Claims

/-- Settles O4: a word with one of the 14 opcodes does not decode, and SUBMIT answers a word that does not decode. -/
theorem unassignedOpcodeIsIllegal : Obligations.UnassignedOpcodeIsIllegal := by
  unfold Obligations.UnassignedOpcodeIsIllegal
  refine ⟨all_rejected_iff_unassigned, ?_, by decide⟩
  intro s p cw ms hm idle hu
  exact step_of_undecodable hm idle (decode_of_unassigned hu)

theorem step_of_reserved {s : State} {p : Port} {cw : CmdWord} {ms : List Move} (f : Format)
    (hm : s.env.moves = .submit p cw :: ms) (idle : s.port[p].busy = false)
    (hop : (fieldOp cw).toNat ∈ opcodesOfFormat f) (hz : mustBeZeroHolds f cw = false) :
    step s = .next (withMoves (answered s p cw 4 0) ms) := by
  obtain ⟨i, hi, rfl⟩ := exists_opcodeOf_of_format f hop
  exact step_of_undecodable hm idle (decode_of_reserved hi.symm hz)

/-- Settles O5, a format at a time. -/
theorem reservedFieldNotZeroIsIllegal : Obligations.ReservedFieldNotZeroIsIllegal := by
  unfold Obligations.ReservedFieldNotZeroIsIllegal
  rintro s p cw ms hm idle (⟨hop, hz⟩ | ⟨hop, hz⟩ | ⟨hop, hz⟩ | ⟨hop, hz⟩)
  · refine step_of_reserved .z hm idle hop ?_
    simp only [mustBeZeroHolds, Bool.and_eq_false_iff, beq_eq_false_iff_ne, or_assoc]
    exact hz
  · refine step_of_reserved .a hm idle hop ?_
    simp only [mustBeZeroHolds, Bool.and_eq_false_iff, beq_eq_false_iff_ne]
    exact hz
  · exact step_of_reserved .ad hm idle (List.mem_singleton.2 hop) (beq_eq_false_iff_ne.2 hz)
  · exact step_of_reserved .abv hm idle (List.mem_singleton.2 hop) (beq_eq_false_iff_ne.2 hz)

/-- SUBMIT of a command on a port of the wrong class (R100 case 3). -/
theorem submit_of_wrong_class {c : Command} {s : State} {p : Port} {cw : CmdWord} (idle : (portAt s p).busy = false)
    (hc : classAdmits c.cls p = false) : submit c p cw s = .next (raiseError s p cw .illegal) := by
  simp [submit, idle, hc]

/-- SUBMIT of `DROP`, which is of every class and has no check and no plan, on a live port (R100 case 7, R147). -/
theorem submit_drop {s : State} {p : Port} {cw : CmdWord} (idle : (portAt s p).busy = false)
    (live : isLive s p = true) :
    submit (commandOf .drop) p cw s = .next (respond (dropEffect s p) p cw .ok 0) := by
  simp [submit, idle, live, commandOf, classAdmits, handleLive, noCheck]

/-- Settles O6: SUBMIT of the decoded command refuses the port's class; `DROP` is of every class. -/
theorem portClassIsEnforced : Obligations.PortClassIsEnforced := by
  unfold Obligations.PortClassIsEnforced
  constructor
  · intro s p i ms hm idle wrong
    have hc : classAdmits (commandOf i).cls p = false := by rw [commandOf_cls]; exact (wrongPort_iff p i).1 wrong
    calc
      step s = submit (commandOf i) p (encode i) (withMoves s ms) :=
        step_of_submit hm idle (decodeEncodeRoundTrip i)
      _ = .next (raiseError (withMoves s ms) p (encode i) .illegal) := submit_of_wrong_class idle hc
      _ = .next (withMoves (answered s p (encode i) 4 0) ms) := rfl
  · intro s p ms hm idle live
    calc
      step s = submit (commandOf .drop) p (encode .drop) (withMoves s ms) :=
        step_of_submit hm idle (decodeEncodeRoundTrip .drop)
      _ = .next (respond (dropEffect (withMoves s ms) p) p (encode .drop) .ok 0) := submit_drop idle live
      _ = .next (withMoves (answered (lifecycleEffect s p .drop) p (encode .drop) 0 0) ms) := rfl

/-- Settles O7: the word is the code and the value, one after the other. -/
theorem responseWordLayout : Obligations.ResponseWordLayout := by
  unfold Obligations.ResponseWordLayout
  exact ⟨fun _ _ => ⟨BitVec.extractLsb'_append_eq_left, BitVec.extractLsb'_append_eq_right⟩, rfl, rfl, rfl, rfl, rfl⟩

end Sys2Proof.Machine
end

section
/-! `merge` as a bit vector (R88): two bytes with the same bits are the same, and `getLsbD_merge` gives the bits. -/

namespace Sys2Proof.Machine

/-- Two merges at different bits commute (R88). -/
theorem merge_comm (b : Byte) {i j : BitVec 3} (hij : i ≠ j) (v w : Bool) :
    merge (merge b i v) j w = merge (merge b j w) i v := by
  have hne : i.toNat ≠ j.toNat := fun e => hij (BitVec.eq_of_toNat_eq e)
  refine BitVec.eq_of_getLsbD_eq fun n hn => ?_
  simp only [getLsbD_merge _ _ _ hn]
  by_cases hi : n = i.toNat
  · rw [if_pos hi, if_pos hi, if_neg (hi ▸ hne)]
  · rw [if_neg hi, if_neg hi]

/-- The later of two merges at one bit is the one that counts (R88). -/
theorem merge_merge_same (b : Byte) (i : BitVec 3) (v w : Bool) : merge (merge b i v) i w = merge b i w := by
  refine BitVec.eq_of_getLsbD_eq fun n hn => ?_
  simp only [getLsbD_merge _ _ _ hn]
  split <;> rfl

/-- A merge of the bit that is there changes nothing (R88). -/
theorem merge_getLsbD (b : Byte) (i : BitVec 3) : merge b i (b.getLsbD i.toNat) = b := by
  refine BitVec.eq_of_getLsbD_eq fun n hn => ?_
  rw [getLsbD_merge _ _ _ hn]
  split
  · next hi => rw [hi]
  · rfl

/-- Settles O53: the bits of `merge`, and from them its three laws. -/
theorem mergeReplacesOneBit : Obligations.MergeReplacesOneBit := by
  unfold Obligations.MergeReplacesOneBit
  exact ⟨fun b i v _ => getLsbD_merge b i v, fun b _ _ v w hij => merge_comm b hij v w, merge_merge_same,
    merge_getLsbD⟩

end Sys2Proof.Machine
end

section
/-! Every step of a command whose plan is one micro-operation, from its plan, its check and its effect (R85 to R87, R90,
R100 to R105). -/

namespace Sys2Proof.Machine

open Sys2Proof.Claims

section
variable {i : Instr} {p : Port}

theorem acceptedOn_of_check {ok : State → Prop} (cls : classAdmits (portClass i) p = true)
    (hchk : ∀ s, ok s → (commandOf i).check s p = none) (hplan : ∀ c, plan c p i ≠ []) : AcceptedOn i p ok := by
  intro s ms hm idle live hok
  have hnew : ∀ a, i ≠ .new a := by
    rintro a rfl
    exact hplan s.cfg rfl
  exact exec_accepts hm idle cls live hnew (by rw [check_withMoves, hchk s hok]) (hplan s.cfg)

theorem acquiresFor_of_plan {op : Cfg → MicroOp} {ph : Phase} (hplan : ∀ c, plan c p i = [op c])
    (hph : ∀ c, firstPhase (op c) = ph) : AcquiresFor i p ph := by
  intro s ms hm waits free
  obtain ⟨busy, wait, hk⟩ := waits
  have hk' : (portAt s p).k.val = 0 := hk
  rw [← hph s.cfg]
  exact exec_acquires hm busy wait free (by rw [hplan, hk']; rfl)

/-- A command whose plan is one read, in every state its check lets pass (R85, R127, R128, R137). -/
theorem readCommand_of_plan {addr : Cfg → Byte} {val : Byte → Byte} (cls : classAdmits (portClass i) p = true)
    (hchk : ∀ s, (commandOf i).check s p = none) (hplan : ∀ c, plan c p i = [.read (addr c)])
    (heff : ∀ t, (commandOf i).effect t p = t) (hval : ∀ b, (commandOf i).value p b = val b) :
    ReadCommand i p addr val := by
  refine ⟨acceptedOn_of_check cls (fun s _ => hchk s) (by simp [hplan]), acquiresFor_of_plan hplan fun _ => rfl, ?_⟩
  intro s ms ans hm reads owns
  obtain ⟨success, failure⟩ := exec_read_ends hm reads owns (hplan s.cfg) heff
  exact ⟨fun b t hr => hval b ▸ success b t hr, failure⟩

/-- A command whose plan is one read-modify-write and that installs no tag (R87, R125, R126, R135, R136). -/
theorem rmwCommand_of_plan {ok : State → Prop} {addr : Cfg → Byte} {bit : BitVec 3} {val : Cfg → Bool}
    (cls : classAdmits (portClass i) p = true) (hchk : ∀ s, ok s → (commandOf i).check s p = none)
    (hplan : ∀ c, plan c p i = [.rmw (addr c) bit (val c)]) (heff : ∀ t, (commandOf i).effect t p = t) :
    RmwCommand i p ok addr bit val := by
  refine ⟨acceptedOn_of_check cls hchk (by simp [hplan]), acquiresFor_of_plan hplan fun _ => rfl, ?_, ?_⟩
  · intro s ms ans hm _ reads owns
    exact exec_read_half hm reads owns (by rw [hplan]; rfl)
  · intro s ms ans b w hm writes owns tmp hw
    exact exec_write_ends hm writes owns (.inr ⟨bit, val s.cfg, b, hplan s.cfg, tmp, hw⟩) heff

end

/-- Settles O17: its plan is one read, and its value the byte read. -/
theorem rdregReadsRegister : Obligations.RdregReadsRegister := by
  unfold Obligations.RdregReadsRegister
  intro a
  exact readCommand_of_plan rfl (fun _ => rfl) (fun _ => rfl) (fun _ => rfl) fun _ => rfl

/-- Settles O18: its plan is one write, with no read before it. -/
theorem wrregWritesRegister : Obligations.WrregWritesRegister := by
  unfold Obligations.WrregWritesRegister
  intro a d
  have hplan : ∀ c, plan c 16 (.wrreg a d) = [.write a d] := fun _ => rfl
  refine ⟨acceptedOn_of_check rfl (fun _ _ => rfl) (by simp [hplan]), acquiresFor_of_plan hplan fun _ => rfl, ?_⟩
  intro s ms ans hm writes owns
  exact exec_write_ends hm writes owns (.inl (hplan s.cfg)) fun _ => rfl

/-- Settles O19: its plan is one read-modify-write. -/
theorem modbitMergesOneBit : Obligations.ModbitMergesOneBit := by
  unfold Obligations.ModbitMergesOneBit
  intro a b v
  exact rmwCommand_of_plan rfl (fun _ _ => rfl) (fun _ => rfl) fun _ => rfl

end Sys2Proof.Machine
end

section
/-! Whole commands of one micro-operation, with the transfers answered by the moves (R85, R87, R125 to R128, R135 to
R137, R214; logs 13 and 20): what such a plan says of its command, and the run. -/

namespace Sys2Proof.Machine

open Sys2Proof.Claims

theorem installs_eq_none_iff (i : Instr) : installs i = none ↔ ¬ IsModeCommand i := by
  cases i <;> simp [installs, IsModeCommand]

/-- A command that has micro-operations and is none that installs a tag has no effect on completion (R104). -/
theorem effect_eq_self {i : Instr} {c : Cfg} {p : Port} {op : MicroOp} {ops : List MicroOp}
    (hplan : plan c p i = op :: ops) (hm : ¬ IsModeCommand i) (t : State) : (commandOf i).effect t p = t := by
  have hn : ¬ IsLifecycle i := not_lifecycle_of_plan (k := 0) (by rw [hplan]; rfl)
  rw [effect_of_not_lifecycle hn, (installs_eq_none_iff i).2 hm]
  rfl

/-- SUBMIT's mode check passes where the tag is not a wrong one (R100 case 6, R130). -/
theorem check_eq_none {i : Instr} {s : State} {p : Port} (hplan : plan s.cfg p i ≠ []) (hmode : ¬ WrongMode s p i) :
    (commandOf i).check s p = none := by
  have output (hi : i = .setHigh ∨ i = .setLow) : outputModeCheck s p = none := by
    obtain rfl | ⟨q, rfl⟩ := port_cases p
    · rw [outputModeCheck, pinOf_portPD]
    · refine outputModeCheck_of_output ?_
      by_contra hq
      obtain ⟨no, nod⟩ := not_or.1 hq
      exact hmode ⟨hi, q, rfl, no, nod⟩
  cases i with
  | new a => exact absurd rfl hplan
  | setHigh => exact output (.inl rfl)
  | setLow => exact output (.inr rfl)
  | _ => rfl

/-! ### Commands whose plan is one read -/

/-- The commands whose plan is one read: `RDREG`, and three on pin ports (R90). -/
theorem read_plan_cases {c : Cfg} {p : Port} {i : Instr} {a : Byte} (h : plan c p i = [.read a]) :
    i = .rdreg a ∨ (i = .isLow ∨ i = .isHigh ∨ i = .irqStatus) ∧ ∃ q, p = pinPort q := by
  obtain rfl | ⟨q, rfl⟩ := port_cases p
  · cases i with
    | rdreg b => cases h; exact .inl rfl
    | _ => cases h
  · cases i with
    | rdreg b => cases h; exact .inl rfl
    | isLow => exact .inr ⟨.inl rfl, q, rfl⟩
    | isHigh => exact .inr ⟨.inr (.inl rfl), q, rfl⟩
    | irqStatus => exact .inr ⟨.inr (.inr rfl), q, rfl⟩
    | new _ | split | drop | wrreg _ _ | modbit _ _ _ => cases h
    | setLow | setHigh | irqDisarm | irqArm => simp [plan, rmwPlan_pinPort] at h
    | intoInput | intoInputPu | intoInputPd | intoOutput | intoOutputOd => simp [plan, intoPlan_pinPort] at h

theorem not_modeCommand_of_read_plan {c : Cfg} {p : Port} {i : Instr} {a : Byte} (h : plan c p i = [.read a]) :
    ¬ IsModeCommand i := by
  obtain rfl | ⟨rfl | rfl | rfl, -⟩ := read_plan_cases h <;> simp [IsModeCommand]

theorem not_wrongMode_of_read_plan {c : Cfg} {s : State} {p : Port} {i : Instr} {a : Byte}
    (h : plan c p i = [.read a]) : ¬ WrongMode s p i := by
  obtain rfl | ⟨rfl | rfl | rfl, -⟩ := read_plan_cases h <;> simp [WrongMode]

/-- The value a read command computes is the one of R72. -/
theorem value_of_read_plan {c : Cfg} {p : Port} {i : Instr} {a : Byte} (h : plan c p i = [.read a]) (b : Byte) :
    (commandOf i).value p b = readValue i p b := by
  obtain rfl | ⟨rfl | rfl | rfl, q, rfl⟩ := read_plan_cases h
  · rfl
  · cases hb : b.getLsbD (q.val % 8) <;> simp [commandOf, pinLow, pinOf_pinPort, bitpos_toNat, bitValue, readValue, hb]
  · simp [commandOf, pinHigh, pinOf_pinPort, bitpos_toNat, bitValue, readValue]
  · rfl

/-- Settles O27: the run of a read command, from the plan that says which commands those are. -/
theorem readCommandRunsToResponse : Obligations.ReadCommandRunsToResponse := by
  unfold Obligations.ReadCommandRunsToResponse
  intro s p i a b ms hplan hport idle live free
  have cls : classAdmits (portClass i) p = true := by simpa using (wrongPort_iff p i).not.1 hport
  have hchk := check_eq_none (by simp [hplan]) (not_wrongMode_of_read_plan (s := s) hplan)
  have run := run_read_command (ms := ms) (decodeEncodeRoundTrip i) idle cls live free hchk
    (effect_eq_self hplan (not_modeCommand_of_read_plan hplan)) hplan (readReply_some s a (.ok b)) 0
  rw [value_of_read_plan hplan] at run
  exact ⟨_, run, rfl, rfl, rfl, congrArg PortState.busy (withPort_port_self s p _), rfl, rfl, rfl, rfl, rfl,
    fun q hq => withPort_port_ne s _ hq⟩

/-! ### Commands whose plan is one read-modify-write -/

section
variable {s : State} {p : Port} {i : Instr} {ms : List Move} {a b w : Byte} {rans : Option ReadAnswer}
  {wans : Option WriteAnswer} {u u' : Option Target}

/-- BUS_WR of a command whose plan is one write or one read-modify-write, with its move at the head of the list. -/
theorem step_write_ends (hd : decode s.port[p].cw = .ok i) (writes : AtPhase s p .wr 0) (owns : Owns s p)
    (hop : plan s.cfg p i = [.write a w] ∨
      ∃ j v b, plan s.cfg p i = [.rmw a j v] ∧ s.port[p].tmp = some b ∧ w = merge b j v)
    (heff : ∀ t, (commandOf i).effect t p = t) (hw : writeReply s a w wans = (.ok, u)) :
    step (withMoves s (.busWr p wans :: ms)) =
      .next (withMoves (answered (ended (didWrite s p a w .ok u) p) p s.port[p].cw 0 0) ms) := by
  have hf : fetch (withMoves s (.busWr p wans :: ms)) = some (p, s.port[p].cw) := by
    rw [fetch_busWr rfl]; exact if_pos writes.1
  rw [step_of_fetch hf hd]
  exact (exec_write_ends (s := withMoves s _) rfl writes owns hop heff).1 u hw

/-- A command whose plan is one read-modify-write and that has no effect on completion, from SUBMIT to its response. R8
(c) is not needed here: it bounds the length of a plan, and this plan has one micro-operation. -/
theorem run_single_rmw {cw : CmdWord} {j : BitVec 3} {v : Bool} (hd : decode cw = .ok i)
    (idle : s.port[p].busy = false) (cls : classAdmits (portClass i) p = true) (live : s.live[p] = true)
    (free : s.gate.locked = false) (hchk : (commandOf i).check s p = none) (heff : ∀ t, (commandOf i).effect t p = t)
    (hplan : plan s.cfg p i = [.rmw a j v]) (hr : readReply s a rans = (.ok b, u))
    (hw : writeReply (didRead s p a (.ok b) u) a (merge b j v) wans = (.ok, u')) (n : Nat) :
    Host.Core.run core (n + 4) (withMoves s (.submit p cw :: .acq p :: .busRd p rans :: .busWr p wans :: ms)) =
      Host.Core.run core n (withMoves (rmwAnswered s p cw a b (merge b j v) u') ms) := by
  have hop : (plan s.cfg p i)[0]? = some (MicroOp.rmw a j v) := by rw [hplan]; rfl
  have hcw : (accepted s p cw).port[p].cw = cw := by rw [accepted_port_self]
  have hcw' : (granted (accepted s p cw) p .rd).port[p].cw = cw := by rw [granted_port_self, hcw]
  have waits := atPhase_accepted s p cw
  have reads := atPhase_granted waits .rd
  have half := step_read_half (s := granted (accepted s p cw) p .rd) (ms := .busWr p wans :: ms) (by rw [hcw', hd])
    reads ⟨rfl, rfl⟩ hop hr
  have hlatch : (latched (didRead (granted (accepted s p cw) p .rd) p a (.ok b) u) p b).port[p] =
      { (granted (accepted s p cw) p .rd).port[p] with tmp := some b, ph := .wr } := latched_port_self _ p b
  have ends := step_write_ends (s := latched (didRead (granted (accepted s p cw) p .rd) p a (.ok b) u) p b) (p := p)
    (ms := ms) (by rw [hlatch, hcw', hd]) (atPhase_latched reads b) ⟨rfl, rfl⟩
    (.inr ⟨j, v, b, hplan, by rw [hlatch], rfl⟩) heff hw
  rw [hlatch, hcw', rmwWritten_eq, rmwAnswered_eq] at ends
  exact (run_of_step (step_accepts hd idle cls live hchk (by simp [hplan]))).trans
    ((run_of_step (step_acquires (by rw [hcw, hd]) waits free hop)).trans ((run_of_step half).trans (run_of_step ends)))

end

/-- Settles O28: the run of a read-modify-write that installs no tag. -/
theorem rmwCommandRunsToResponse : Obligations.RmwCommandRunsToResponse := by
  unfold Obligations.RmwCommandRunsToResponse
  intro s p i a b j v ms hplan hmode hport htag idle live free
  have cls : classAdmits (portClass i) p = true := by simpa using (wrongPort_iff p i).not.1 hport
  have hchk := check_eq_none (by simp [hplan]) htag
  have run := run_single_rmw (ms := ms) (decodeEncodeRoundTrip i) idle cls live free hchk (effect_eq_self hplan hmode)
    hplan (readReply_some s a (.ok b)) (writeReply_some _ a (merge b j v) .ok) 0
  exact ⟨_, run, rfl, rfl, rfl, congrArg PortState.busy (withPort_port_self s p _), rfl, rfl, rfl, rfl, rfl,
    fun q hq => withPort_port_ne s _ hq⟩

end Sys2Proof.Machine
end

section
/-! What the step of a command that has micro-operations leaves as it was (R85 to R87, R125 to R128, R135 to R137; log
20): the registers that no transfer stores to, then each way the step can go. -/

namespace Sys2Proof.Machine

open Sys2Proof.Claims

/-! ### The register a transfer stores to -/

/-- A read at RT changes no register but the status register it clears (R63). -/
theorem targetReg_targetRead {c : Cfg} {t : Target} {a x : Byte} (hwf : Memory.wf t.reg = true)
    (hx : a = addrOf c .intStatus .low ∨ a = addrOf c .intStatus .high → x ≠ a) (n : Nat) (dev : DevAddr) :
    targetReg (targetRead c t n dev a).2 x = targetReg t x := by
  have reg : targetReg (targetReadReg c t a).2 x = targetReg t x := by
    unfold targetReadReg
    split
    · rfl
    · split
      · rfl
      · split
        · next status => exact targetReg_targetSetReg_ne t a x 0 hwf (hx status)
        · rfl
  unfold targetRead
  split
  · rfl
  · split
    · exact reg
    · rfl

/-- A write at RT changes no register but its own (R62). -/
theorem targetReg_targetWrite {t : Target} {a x : Byte} (hwf : Memory.wf t.reg = true) (hx : x ≠ a) (n : Nat)
    (dev : DevAddr) (v : Byte) : targetReg (targetWrite t n dev a v).2 x = targetReg t x := by
  unfold targetWrite
  split
  · rfl
  · split
    · exact targetReg_targetSetReg_ne t a x v hwf hx
    · rfl

section
variable {s : State} {a x : Byte} (hwf : ∀ t, s.env.target = some t → Memory.wf t.reg = true)
include hwf

theorem regOf_afterRead (hx : a = addrOf s.cfg .intStatus .low ∨ a = addrOf s.cfg .intStatus .high → x ≠ a) (p : Port)
    (ans : Option ReadAnswer) : regOf (afterRead s p a ans) x = regOf s x := by
  simp only [regOf, afterRead_env]
  cases ans with
  | some r => rfl
  | none =>
    cases ht : s.env.target with
    | none => rw [readReply_of_unattached ht]
    | some t =>
      rw [readReply_of_attached ht, Option.map_some, Option.map_some, targetReg_targetRead (hwf t ht) hx]

theorem regOf_afterWrite (hx : x ≠ a) (p : Port) (w : Byte) (ans : Option WriteAnswer) :
    regOf (afterWrite s p a w ans) x = regOf s x := by
  simp only [regOf, afterWrite_env]
  cases ans with
  | some r => rfl
  | none =>
    cases ht : s.env.target with
    | none => rw [writeReply_of_unattached ht]
    | some t =>
      rw [writeReply_of_attached ht, Option.map_some, Option.map_some, targetReg_targetWrite (hwf t ht) hx]

end

/-- A read stores to the status register it clears, and to no other (R63 (b)). -/
theorem storedTo_busRd {s : State} {p : Port} {ans : Option ReadAnswer} {ms : List Move} {op : MicroOp} {a : Byte}
    (hm : s.env.moves = .busRd p ans :: ms) (hop : currentOp s p = some op)
    (reads : op = .read a ∨ ∃ j v, op = .rmw a j v) :
    storedTo s = if a = addrOf s.cfg .intStatus .low ∨ a = addrOf s.cfg .intStatus .high then some a else none := by
  obtain rfl | ⟨j, v, rfl⟩ := reads <;> simp only [storedTo, hm, hop]

/-- A write stores to its own register (R62). -/
theorem storedTo_busWr {s : State} {p : Port} {ans : Option WriteAnswer} {ms : List Move} {op : MicroOp} {a w : Byte}
    (hm : s.env.moves = .busWr p ans :: ms) (hop : currentOp s p = some op)
    (writes : op = .write a w ∨ ∃ j v b, op = .rmw a j v ∧ (portAt s p).tmp = some b ∧ w = merge b j v) :
    storedTo s = some a := by
  obtain rfl | ⟨j, v, b, rfl, -⟩ := writes <;> simp only [storedTo, hm, hop]

/-! ### The frame of a step -/

/-- What the step of the command `i` leaves as it was: what `TransactionFrame` lists, and every tag but the one that a
command which installs one writes, on its own pin. -/
structure CommandFrame (i : Instr) (s s' : State) : Prop where
  frame : TransactionFrame s s'
  tags  : ∀ q, modeAt s' q ≠ modeAt s q → movingPort s = some (pinPort q) ∧ installs i ≠ none

theorem port_eq_of_ne_moving {s s' : State} {p : Port} (mp : movingPort s = some p)
    (port : ∀ x, x ≠ p → s'.port[x] = s.port[x]) (x : Port) (hx : movingPort s ≠ some x) : s'.port[x] = s.port[x] :=
  port x fun e => hx (e ▸ mp)

/-- After a transfer the command changes its own port's record, the gate, its own tag and the history, and no more (R102
to R105). -/
theorem transferEnd_frame {i : Instr} {p : Port} {u s' : State} (hn : ¬ IsLifecycle i)
    (fin : TransferEnd (commandOf i) p u s') :
    s'.live = u.live ∧ s'.refcnt = u.refcnt ∧ s'.env = u.env ∧ ∀ x, x ≠ p → s'.port[x] = u.port[x] := by
  obtain ⟨g, r, rfl, -⟩ | ⟨w, st, v, hw, rfl⟩ := transferEnd_cases hn fin
  · exact ⟨rfl, rfl, rfl, fun x hx => portAt_setPort_ne _ p x _ hx⟩
  · have same : w.live = u.live ∧ w.refcnt = u.refcnt ∧ w.env = u.env ∧ w.port = u.port := by
      obtain rfl | ⟨m, -, rfl⟩ := hw <;> simp
    obtain ⟨live, refcnt, env, port⟩ := same
    exact ⟨live, refcnt, env, fun x hx => (portAt_setPort_ne w p x _ hx).trans (portAt_congr _ _ port x)⟩

/-- The frame of a transfer and of what follows it, from the registers the transfer itself keeps. -/
theorem commandFrame_of_transfer {i : Instr} {p : Port} {s u s' : State} (hn : ¬ IsLifecycle i)
    (mp : movingPort s = some p) (notSubmit : ∀ q cw ms, s.env.moves ≠ .submit q cw :: ms) (tr : Transferred s p u)
    (regs : ∀ a, storedTo s ≠ some a → regOf u a = regOf s a) (fin : TransferEnd (commandOf i) p u s') :
    CommandFrame i s s' := by
  obtain ⟨live, refcnt, env, port⟩ := transferEnd_frame hn fin
  obtain ⟨cfg, devaddr⟩ := transferEnd_cfg_devaddr hn fin
  obtain ⟨-, hist⟩ := transferEnd_hist hn fin
  obtain ⟨e, event, -⟩ := tr.event
  have grows : ∃ es, s'.hist = s.hist ++ es := by
    obtain hist | ⟨rw, hist⟩ := hist
    · exact ⟨[e], hist.trans event⟩
    · exact ⟨[e, .resp p (portAt u p).cw rw], by simp [hist, event]⟩
  have others : ∀ x, x ≠ p → s'.port[x] = s.port[x] := fun x hx => (port x hx).trans (portAt_congr _ _ tr.port x)
  constructor
  · exact ⟨live.trans tr.live, refcnt.trans tr.refcnt, devaddr.trans tr.devaddr, cfg.trans tr.cfg,
      port_eq_of_ne_moving mp others, fun q cw ms hm => absurd hm (notSubmit q cw ms), grows,
      fun a ha => (congrArg (fun v : Env => v.target.map fun t => targetReg t a) env).trans (regs a ha)⟩
  · intro q hq
    rw [← modeAt_congr _ _ tr.mode q] at hq
    obtain ⟨rfl, inst, -⟩ := transferEnd_modeAt hn fin hq
    exact ⟨mp, by simp [inst]⟩

/-- The error exit of SUBMIT is an answer and nothing else (R169). -/
theorem raiseError_eq_respond (s : State) (p : Port) (cw : CmdWord) {k : ErrorKind} (hk : ∀ e, k ≠ .busError e) :
    ∃ st v, raiseError s p cw k = respond s p cw st v := by
  cases k with
  | busError e => exact absurd rfl (hk e)
  | modeError => exact ⟨_, _, rfl⟩
  | initError => exact ⟨_, _, rfl⟩
  | illegal => exact ⟨_, _, rfl⟩

section
variable {i : Instr} {s s' : State} {p : Port} {op : MicroOp} {a : Byte} {ms : List Move}
  (hd : ∀ p, movingPort s = some p → s.port[p].busy = true → decode s.port[p].cw = .ok i)
include hd

/-- The micro-operation at which a port makes a transfer is that of its latched command. -/
theorem currentOp_of_mayTransfer {ph : Phase} (mp : movingPort s = some p) (may : mayTransfer s p ph = true)
    (hop : ((commandOf i).plan s.cfg p)[(portAt s p).k.val]? = some op) : currentOp s p = some op := by
  obtain ⟨busy, -⟩ := mayTransfer_iff.1 may
  rw [currentOp_eq (hd p mp busy), ← commandOf_plan]
  exact hop

variable (hn : ¬ IsLifecycle i) (hwf : ∀ t, s.env.target = some t → Memory.wf t.reg = true)
include hn hwf

theorem commandFrame_of_read {ans : Option ReadAnswer} (hm : s.env.moves = .busRd p ans :: ms)
    (may : mayTransfer s p .rd = true) (hop : ((commandOf i).plan s.cfg p)[(portAt s p).k.val]? = some op)
    (reads : op = .read a ∨ ∃ j v, op = .rmw a j v)
    (fin : TransferEnd (commandOf i) p (afterRead (popMove s) p a ans) s') : CommandFrame i s s' := by
  have mp := movingPort_busRd hm
  have stored := storedTo_busRd hm (currentOp_of_mayTransfer hd mp may hop) reads
  refine commandFrame_of_transfer hn mp (by simp [hm]) (transferred_afterRead s p a ans) (fun x hx => ?_) fin
  refine regOf_afterRead (s := popMove s) hwf (fun status e => hx ?_) p ans
  rw [stored, if_pos (show a = addrOf s.cfg .intStatus .low ∨ a = addrOf s.cfg .intStatus .high from status), e]

theorem commandFrame_of_write {ans : Option WriteAnswer} {w : Byte} (hm : s.env.moves = .busWr p ans :: ms)
    (may : mayTransfer s p .wr = true) (hop : ((commandOf i).plan s.cfg p)[(portAt s p).k.val]? = some op)
    (writes : op = .write a w ∨ ∃ j v b, op = .rmw a j v ∧ (portAt s p).tmp = some b ∧ w = merge b j v)
    (fin : TransferEnd (commandOf i) p (afterWrite (popMove s) p a w ans) s') : CommandFrame i s s' := by
  have mp := movingPort_busWr hm
  have stored := storedTo_busWr hm (currentOp_of_mayTransfer hd mp may hop) writes
  refine commandFrame_of_transfer hn mp (by simp [hm]) (transferred_afterWrite s p a w ans) (fun x hx => ?_) fin
  refine regOf_afterWrite (s := popMove s) hwf (fun e => hx ?_) p w ans
  rw [stored, e]

/-- The frame of the step of a command that has micro-operations, by the cases of a step. -/
theorem commandFrame_of_exec (hc : s.cfg.wf = true) (h : exec i s = .next s') : CommandFrame i s s' := by
  cases exec_cases h with
  | rejected p cw k ms hm idle why hs =>
    have hk : ∀ e, k ≠ .busError e := by
      rintro e rfl
      obtain hk | ⟨-, -, hk⟩ := why
      · cases hk
      · exact check_ne_busError i _ p e hk
    obtain ⟨st, v, answer⟩ := raiseError_eq_respond (popMove s) p cw hk
    rw [hs, answer]
    exact ⟨⟨rfl, rfl, rfl, rfl, fun _ _ => rfl, fun _ _ _ _ => ⟨rfl, rfl⟩, ⟨_, rfl⟩, fun _ _ => rfl⟩,
      fun q hq => absurd rfl hq⟩
  | done p cw ms hm idle cls alive check nil hs =>
    rw [commandOf_cls] at cls
    rw [commandOf_plan] at nil
    obtain ⟨a, rfl⟩ | rfl | rfl := plan_eq_nil_lifecycle i s.cfg p hc cls nil <;> exact absurd trivial hn
  | accepted p cw ms hm idle cls alive check ne hs =>
    subst hs
    exact ⟨⟨rfl, rfl, rfl, rfl, port_eq_of_ne_moving (movingPort_submit hm) fun x hx => portAt_setPort_ne _ p x _ hx,
      fun _ _ _ _ => ⟨rfl, rfl⟩, ⟨[], by simp⟩, fun _ _ => rfl⟩, fun q hq => absurd rfl hq⟩
  | waited p ms hm busy ph held hs =>
    subst hs
    exact ⟨⟨rfl, rfl, rfl, rfl, fun _ _ => rfl, fun _ _ _ _ => ⟨rfl, rfl⟩, ⟨[], by simp⟩, fun _ _ => rfl⟩,
      fun q hq => absurd rfl hq⟩
  | acquired p op ms hm busy ph free hop hs =>
    subst hs
    exact ⟨⟨rfl, rfl, rfl, rfl, port_eq_of_ne_moving (movingPort_acq hm) fun x hx => portAt_setPort_ne _ p x _ hx,
      by simp [hm], ⟨[], by simp⟩, fun _ _ => rfl⟩, fun q hq => absurd rfl hq⟩
  | readFailed p ans op a e ms hm may hop reads reply hs =>
    exact commandFrame_of_read hd hn hwf hm may hop reads (.failed e hs)
  | readLatched p ans a j v b ms hm may hop reply hs =>
    exact commandFrame_of_read hd hn hwf hm may hop (.inr ⟨j, v, rfl⟩) (.latched a j v b hop hs)
  | readDone p ans a b ms hm may hop reply hs =>
    exact commandFrame_of_read hd hn hwf hm may hop (.inl rfl) (.advanced _ hs)
  | writeFailed p ans op a w e ms hm may hop writes reply hs =>
    exact commandFrame_of_write hd hn hwf hm may hop writes (.failed e hs)
  | writeDone p ans op a w ms hm may hop writes reply hs =>
    exact commandFrame_of_write hd hn hwf hm may hop writes (.advanced _ hs)

end

/-- Settles O31: the frame of the step, and no tag is installed. -/
theorem transactionCommandFrame : Obligations.TransactionCommandFrame := by
  unfold Obligations.TransactionCommandFrame
  intro s s' i hn hm hc hwf hd h
  obtain ⟨frame, tags⟩ := commandFrame_of_exec hd hn hwf hc h
  refine ⟨Vector.ext fun k hk => ?_, frame⟩
  change modeAt s' ⟨k, hk⟩ = modeAt s ⟨k, hk⟩
  by_contra hne
  obtain ⟨-, inst⟩ := tags _ hne
  exact inst ((installs_eq_none_iff i).2 hm)

end Sys2Proof.Machine
end

section
/-! SUBMIT (R100): one equation for each of its cases, in the order in which the rule makes its checks, and what a
lifecycle command leaves as it was (R113). -/

namespace Sys2Proof.Machine

open Sys2Proof.Claims

/-! ### The cases of SUBMIT as equations -/

section
variable {c : Command} {s : State} {p : Port} {cw : CmdWord} (idle : (portAt s p).busy = false)
  (cls : classAdmits c.cls p = true)
include idle cls

/-- A handle of the wrong liveness (R100 case 4). -/
theorem submit_of_not_alive (dead : c.alive s p = false) : submit c p cw s = .next (raiseError s p cw .illegal) := by
  simp [submit, idle, cls, dead]

variable (alive : c.alive s p = true)
include alive

/-- A check that fails (R100 cases 5 and 6). -/
theorem submit_of_check {k : ErrorKind} (check : c.check s p = some k) :
    submit c p cw s = .next (raiseError s p cw k) := by
  simp [submit, idle, cls, alive, check]

variable (check : c.check s p = none)
include check

/-- An empty plan (R100 case 7). -/
theorem submit_of_nil (nil : c.plan s.cfg p = []) :
    submit c p cw s = .next (respond (c.effect s p) p cw .ok 0) := by
  simp [submit, idle, cls, alive, check, nil]

/-- A plan that is not empty (R100 case 7). -/
theorem submit_of_ne_nil (ne : c.plan s.cfg p ≠ []) : submit c p cw s = .next (latchCommand s p cw) := by
  simp [submit, idle, cls, alive, check, ne]

end

/-! ### The checks, in the rule's words -/

theorem wrongLiveness_iff (s : State) (p : Port) (i : Instr) :
    WrongLiveness s p i ↔ (commandOf i).alive s p = false := by
  cases i with
  | new a => simp [WrongLiveness, commandOf, noDevice]
  | _ => rfl

theorem alive_withMoves (i : Instr) (s : State) (ms : List Move) (p : Port) :
    (commandOf i).alive (withMoves s ms) p = (commandOf i).alive s p := by
  cases i <;> rfl

/-- The address check of `NEW` fails (R100 case 5). -/
theorem check_of_badAddress {i : Instr} (h : BadAddress i) (s : State) (p : Port) :
    (commandOf i).check s p = some .initError := by
  cases i with
  | new a => exact if_pos h
  | _ => cases h

/-- The mode check of `SET_HIGH` and `SET_LOW` fails (R100 case 6). -/
theorem check_of_wrongMode {s : State} {p : Port} {i : Instr} (h : WrongMode s p i) :
    (commandOf i).check s p = some .modeError := by
  obtain ⟨hi, q, rfl, no, nod⟩ := h
  have fails : outputModeCheck s (pinPort q) = some .modeError := by
    rw [outputModeCheck, pinOf_pinPort]
    exact if_neg (not_or.2 ⟨no, nod⟩)
  obtain rfl | rfl := hi <;> exact fails

theorem check_of_lifecycle {i : Instr} (hi : IsLifecycle i) (good : ¬ BadAddress i) (s : State) (p : Port) :
    (commandOf i).check s p = none := by
  cases i with
  | new a => exact if_neg good
  | split | drop => rfl
  | _ => cases hi

theorem plan_of_lifecycle {i : Instr} (hi : IsLifecycle i) (c : Cfg) (p : Port) : plan c p i = [] := by
  cases i with
  | new _ | split | drop => rfl
  | _ => cases hi

theorem plan_ne_nil_of_not_lifecycle {i : Instr} {c : Cfg} {p : Port} (hc : c.wf = true)
    (cls : classAdmits (portClass i) p = true) (hn : ¬ IsLifecycle i) : plan c p i ≠ [] := by
  intro nil
  obtain ⟨a, rfl⟩ | rfl | rfl := plan_eq_nil_lifecycle i c p hc cls nil <;> exact hn trivial

/-- The effect of a lifecycle command is the one the rules write out (R145 to R147). -/
theorem effect_of_lifecycle {i : Instr} (hi : IsLifecycle i) (s : State) (p : Port) :
    (commandOf i).effect s p = lifecycleEffect s p i := by
  cases i with
  | new _ | split | drop => rfl
  | _ => cases hi

theorem lifecycleEffect_withMoves (s : State) (ms : List Move) (p : Port) (i : Instr) :
    lifecycleEffect (withMoves s ms) p i = withMoves (lifecycleEffect s p i) ms := by
  cases i <;> rfl

/-- Settles O10: each case of the rule is one equation of SUBMIT. -/
theorem submitChecksInOrder : Obligations.SubmitChecksInOrder := by
  unfold Obligations.SubmitChecksInOrder
  intro s p cw ms hm hc
  refine ⟨fun busy s' => by rw [step_of_submit_busy hm busy]; nofun, fun idle =>
    ⟨fun e he => step_of_undecodable hm idle he, fun i hd => ?_⟩⟩
  have idle' : (portAt (withMoves s ms) p).busy = false := idle
  rw [step_of_submit hm idle hd, wrongPort_iff, wrongLiveness_iff, ← alive_withMoves i s ms, ← commandOf_cls,
    Bool.not_eq_false, Bool.not_eq_false]
  refine ⟨submit_of_wrong_class idle', submit_of_not_alive idle', fun cls alive bad => ?_, fun cls alive wrong => ?_,
    fun cls alive good tag => ⟨fun hi => ?_, fun hn => ?_⟩⟩
  · exact submit_of_check idle' cls alive (check_of_badAddress bad _ p)
  · exact submit_of_check idle' cls alive (check_of_wrongMode wrong)
  · have nil : (commandOf i).plan s.cfg p = [] := (commandOf_plan i s.cfg p).trans (plan_of_lifecycle hi s.cfg p)
    rw [submit_of_nil idle' cls alive (check_of_lifecycle hi good _ p) nil, effect_of_lifecycle hi,
      lifecycleEffect_withMoves]
    rfl
  · have ne : plan s.cfg p i ≠ [] := plan_ne_nil_of_not_lifecycle hc (commandOf_cls i ▸ cls) hn
    have check : (commandOf i).check (withMoves s ms) p = none :=
      (check_withMoves i s ms p).trans (check_eq_none ne tag)
    exact submit_of_ne_nil idle' cls alive check (by simpa using ne)

/-! ### What a lifecycle command leaves as it was -/

/-- SUBMIT of a lifecycle command answers it, with its effect where it completes and with nothing else changed
where it is refused. -/
theorem exec_lifecycle_cases {i : Instr} {s s' : State} {p : Port} {cw : CmdWord} {ms : List Move} (hi : IsLifecycle i)
    (hm : s.env.moves = .submit p cw :: ms) (h : exec i s = .next s') :
    ∃ w st v, (w = withMoves s ms ∨ w = (commandOf i).effect (withMoves s ms) p) ∧ s' = respond w p cw st v := by
  rw [← popMove_eq_withMoves hm]
  cases exec_cases h with
  | rejected q w k _ hm' _ why hs =>
    cases hm.symm.trans hm'
    have hk : ∀ e, k ≠ .busError e := by
      rintro e rfl
      obtain hk | ⟨-, -, hk⟩ := why
      · cases hk
      · exact check_ne_busError i _ p e hk
    obtain ⟨st, v, answer⟩ := raiseError_eq_respond (popMove s) p cw hk
    exact ⟨_, st, v, .inl rfl, hs.trans answer⟩
  | done q w _ hm' _ _ _ _ _ hs =>
    cases hm.symm.trans hm'
    exact ⟨_, _, _, .inr rfl, hs⟩
  | accepted q w _ hm' _ _ _ _ ne => exact absurd (by simp [plan_of_lifecycle hi]) ne
  | waited _ _ hm' | acquired _ _ _ hm' | readFailed _ _ _ _ _ _ hm' | readLatched _ _ _ _ _ _ _ hm'
  | readDone _ _ _ _ _ hm' | writeFailed _ _ _ _ _ _ _ hm' | writeDone _ _ _ _ _ _ hm' => cases hm.symm.trans hm'

theorem newEffect_pin_live (a : Byte) (s : State) (p : Port) (q : Pin) :
    (newEffect a s p).live[pinPort q] = s.live[pinPort q] :=
  isLive_setLive_ne s portPD _ true (pinPort_ne_portPD q)

theorem dropEffect_live_ne (s : State) {p x : Port} (hx : x ≠ p) : (dropEffect s p).live[x] = s.live[x] :=
  isLive_setLive_ne s p x false hx

/-- Settles O30: the answer adds one event, and the effect writes what its rule writes. -/
theorem lifecycleFrame : Obligations.LifecycleFrame := by
  unfold Obligations.LifecycleFrame
  intro s s' i p cw ms hi hm h
  obtain ⟨w, st, v, rfl | rfl, rfl⟩ := exec_lifecycle_cases hi hm h
  · exact ⟨rfl, rfl, rfl, rfl, ⟨st, v, rfl⟩, fun _ _ => ⟨rfl, fun _ => rfl⟩, fun _ => rfl,
      fun _ => ⟨rfl, rfl, fun _ _ => rfl⟩⟩
  · refine ⟨effect_gate i _ p, effect_port i _ p, effect_cfg i _ p, effect_env i _ p, ⟨st, v, by simp⟩, ?_, ?_, ?_⟩
    · rintro a rfl
      exact ⟨rfl, newEffect_pin_live a (withMoves s ms) p⟩
    · rintro rfl
      rfl
    · rintro rfl
      exact ⟨rfl, rfl, fun x hx => dropEffect_live_ne (withMoves s ms) hx⟩

end Sys2Proof.Machine
end

section
/-! ACQ, BUS_RD and BUS_WR (R101 to R105): where each is enabled, and what it does at the micro-operation of its
port. -/

namespace Sys2Proof.Machine

open Sys2Proof.Claims

/-! ### Where a step is enabled -/

theorem exec_of_fetch_latched {s s' : State} {p : Port} (hf : fetch s = some (p, (portAt s p).cw))
    (busy : (portAt s p).busy = true) (h : step s = .next s') :
    ∃ i, decode (portAt s p).cw = .ok i ∧ exec i s = .next s' := by
  cases hd : decode (portAt s p).cw with
  | ok i => exact ⟨i, rfl, (step_of_fetch hf hd).symm.trans h⟩
  | error e => simp [step, hf, hd, undecodable, busy] at h

/-- A step of a busy port is the step of its latched command; it is no SUBMIT (R100; log 4). -/
theorem exec_of_busy_step {s s' : State} {p : Port} (mp : movingPort s = some p) (busy : (portAt s p).busy = true)
    (h : step s = .next s') : ∃ i, decode (portAt s p).cw = .ok i ∧ exec i s = .next s' := by
  unfold movingPort at mp
  split at mp <;> cases mp
  · next hm => rw [step_of_submit_busy hm busy] at h; cases h
  · next hm => exact exec_of_fetch_latched (by rw [fetch_acq hm, if_pos busy]) busy h
  · next hm => exact exec_of_fetch_latched (by rw [fetch_busRd hm, if_pos busy]) busy h
  · next hm => exact exec_of_fetch_latched (by rw [fetch_busWr hm, if_pos busy]) busy h

theorem acquire_enabled {c : Command} {p : Port} {s s' : State} (h : acquire c p s = .next s') :
    (portAt s p).busy = true ∧ (portAt s p).ph = .wait := by
  unfold acquire at h
  split at h
  · assumption
  · cases h

/-- With the gate held ACQ leaves the state as it is (R101; log 5). -/
theorem acquire_of_held {c : Command} {p : Port} {s s' : State} (held : s.gate.locked = true)
    (h : acquire c p s = .next s') : s' = s := by
  rw [acquire, if_pos (acquire_enabled h), if_pos held] at h
  cases h
  rfl

theorem busRead_enabled {c : Command} {p : Port} {ans : Option ReadAnswer} {s s' : State}
    (h : busRead c p ans s = .next s') : mayTransfer s p .rd = true := by
  unfold busRead at h
  split at h
  · assumption
  · cases h

theorem busWrite_enabled {c : Command} {p : Port} {ans : Option WriteAnswer} {s s' : State}
    (h : busWrite c p ans s = .next s') : mayTransfer s p .wr = true := by
  unfold busWrite at h
  split at h
  · assumption
  · cases h

section
variable {s s' : State} {p : Port} {ms : List Move}

/-- If ACQ answers a next state, the port was busy and waiting, and nothing of the block changed where the gate was held
(R101; log 5). -/
theorem enabled_of_acq (hm : s.env.moves = .acq p :: ms) (h : step s = .next s') :
    (s.port[p].busy = true ∧ s.port[p].ph = .wait) ∧ (s.gate.locked = true → SameBlock s s') := by
  cases busy : (portAt s p).busy with
  | false => rw [step_of_acq_idle hm busy] at h; cases h
  | true =>
    obtain ⟨i, -, he⟩ := exec_of_busy_step (movingPort_acq hm) busy h
    rw [exec_of_acq hm] at he
    refine ⟨acquire_enabled (s := withMoves s ms) he, fun held => ?_⟩
    obtain rfl := acquire_of_held (s := withMoves s ms) held he
    exact ⟨rfl, rfl, rfl, rfl, rfl, rfl, rfl⟩

/-- If BUS_RD answers a next state, the port was busy in phase `RD` and owned the gate (R102). -/
theorem enabled_of_busRd {ans : Option ReadAnswer} (hm : s.env.moves = .busRd p ans :: ms) (h : step s = .next s') :
    s.port[p].busy = true ∧ s.port[p].ph = .rd ∧ Owns s p := by
  cases busy : (portAt s p).busy with
  | false => rw [step_of_busRd_idle hm busy] at h; cases h
  | true =>
    obtain ⟨i, -, he⟩ := exec_of_busy_step (movingPort_busRd hm) busy h
    rw [exec_of_busRd hm] at he
    exact mayTransfer_iff.1 (busRead_enabled (s := withMoves s ms) he)

/-- If BUS_WR answers a next state, the port was busy in phase `WR` and owned the gate (R103). -/
theorem enabled_of_busWr {ans : Option WriteAnswer} (hm : s.env.moves = .busWr p ans :: ms) (h : step s = .next s') :
    s.port[p].busy = true ∧ s.port[p].ph = .wr ∧ Owns s p := by
  cases busy : (portAt s p).busy with
  | false => rw [step_of_busWr_idle hm busy] at h; cases h
  | true =>
    obtain ⟨i, -, he⟩ := exec_of_busy_step (movingPort_busWr hm) busy h
    rw [exec_of_busWr hm] at he
    exact mayTransfer_iff.1 (busWrite_enabled (s := withMoves s ms) he)

end

/-! ### ACQ -/

/-- ACQ takes the free gate and starts the micro-operation the port is at (R101). -/
theorem step_takes_free_gate {s : State} {p : Port} {ms : List Move} {op : MicroOp} (hm : s.env.moves = .acq p :: ms)
    (busy : s.port[p].busy = true) (ph : s.port[p].ph = .wait) (free : s.gate.locked = false)
    (hop : currentOp s p = some op) : step s = .next (withMoves (granted s p (firstPhase op)) ms) := by
  obtain ⟨i, hd, hi⟩ := currentOp_decode hop
  rw [step_of_acq hm busy hd, ← exec_of_acq hm]
  exact exec_acquires hm busy ph free hi

/-- Settles O11: ACQ of a port that waits takes the free gate, changes nothing where the gate is held, and is enabled
nowhere else. -/
theorem acquireNeedsFreeGate : Obligations.AcquireNeedsFreeGate := by
  unfold Obligations.AcquireNeedsFreeGate
  intro s p ms hm
  refine ⟨fun busy ph free => ?_, fun held s' h => (enabled_of_acq hm h).2 held, ?_⟩
  · have takes {op : MicroOp} := step_takes_free_gate (op := op) hm busy ph free
    exact ⟨fun _ _ => takes, fun _ => takes, fun _ _ _ => takes⟩
  · intro off s' h
    obtain ⟨⟨busy, ph⟩, -⟩ := enabled_of_acq hm h
    obtain idle | other := off
    · exact Bool.false_ne_true (idle.symm.trans busy)
    · exact other ph

/-! ### BUS_RD -/

/-- A read is all of its command's plan (R90). -/
theorem plan_of_read {c : Cfg} {p : Port} {i : Instr} {a : Byte} (h : .read a ∈ plan c p i) :
    plan c p i = [.read a] := by
  have single {x : Byte} (hx : .read a ∈ [MicroOp.read x]) : [MicroOp.read x] = [.read a] := by
    rw [List.mem_singleton.1 hx]
  obtain rfl | ⟨q, rfl⟩ := port_cases p
  · cases i with
    | rdreg x => exact single h
    | _ => simp [plan, readPlan, rmwPlan, intoPlan, pinPlan, pinOf_portPD] at h
  · cases i with
    | rdreg x => exact single h
    | isLow | isHigh | irqStatus => rw [plan, readPlan_pinPort] at h ⊢; exact single h
    | setLow | setHigh | irqDisarm | irqArm => simp [plan, rmwPlan_pinPort] at h
    | intoInput | intoInputPu | intoInputPd | intoOutput | intoOutputOd => simp [plan, intoPlan_pinPort] at h
    | _ => simp [plan] at h

/-- A command that installs no tag completes after the last micro-operation of its plan (R104). -/
theorem advancedTo_of_last {s : State} {p : Port} {i : Instr} (last : ¬ s.port[p].k.val + 1 < (plan s.cfg p i).length)
    (hn : ¬ IsModeCommand i) (v : Byte) : AdvancedTo i p v s (answered (ended s p) p s.port[p].cw 0 v) := by
  rw [AdvancedTo, if_neg last, (installs_eq_none_iff i).2 hn]

section
variable {s : State} {p : Port} {i : Instr} {ms : List Move} {ans : Option ReadAnswer} {a : Byte}
  (hm : s.env.moves = .busRd p ans :: ms) (busy : s.port[p].busy = true) (ph : s.port[p].ph = .rd) (owns : Owns s p)
  (hd : decode s.port[p].cw = .ok i)
include hm busy ph owns hd

/-- BUS_RD of a read: its byte completes the command, which has no other micro-operation (R102 (a), (c)). -/
theorem step_read (hop : currentOp s p = some (.read a)) :
    (∀ x t, readReply s a ans = (.ok x, t) → ∃ s', AdvancedTo i p (readValue i p x) (didRead s p a (.ok x) t) s' ∧
      step s = .next (withMoves s' ms)) ∧
    (∀ e t, readReply s a ans = (.err e, t) →
      step s = .next (withMoves (answered (ended (didRead s p a (.err e) t) p) p s.port[p].cw 1 e) ms)) := by
  rw [currentOp_eq hd] at hop
  have hplan := plan_of_read (List.mem_of_getElem? hop)
  have hk : s.port[p].k.val = 0 := by
    have hlt := (List.getElem?_eq_some_iff.1 hop).1
    rw [hplan] at hlt
    exact Nat.lt_one_iff.1 hlt
  have hn := not_modeCommand_of_read_plan hplan
  rw [step_of_busRd hm busy hd, ← exec_of_busRd hm]
  obtain ⟨success, failure⟩ := exec_read_ends hm ⟨busy, ph, hk⟩ owns hplan (effect_eq_self hplan hn)
  refine ⟨fun x t hr => ⟨_, ?_, success x t hr⟩, failure⟩
  rw [value_of_read_plan hplan]
  exact advancedTo_of_last (s := didRead s p a (.ok x) t) (by simp [didRead, hplan]) hn _

/-- BUS_RD of a read-modify-write: its byte is latched (R102 (a), (b)). -/
theorem step_rmw_read {b : BitVec 3} {v : Bool} (hop : currentOp s p = some (.rmw a b v)) :
    (∀ x t, readReply s a ans = (.ok x, t) → step s = .next (withMoves (latched (didRead s p a (.ok x) t) p x) ms)) ∧
    (∀ e t, readReply s a ans = (.err e, t) →
      step s = .next (withMoves (answered (ended (didRead s p a (.err e) t) p) p s.port[p].cw 1 e) ms)) := by
  rw [currentOp_eq hd] at hop
  rw [step_of_busRd hm busy hd, ← exec_of_busRd hm]
  exact exec_read_half hm ⟨busy, ph, rfl⟩ owns hop

end

/-- Settles O12, by the kind of the micro-operation and the answer to its transfer. -/
theorem busReadStep : Obligations.BusReadStep := by
  unfold Obligations.BusReadStep
  intro s p ans ms hm _
  refine ⟨fun busy ph owns i hd => ⟨fun a e t hop hr => ?_, fun a b v x t hop => ?_, fun a x t hop => ?_⟩, ?_⟩
  · obtain hop | ⟨b, v, hop⟩ := hop
    · exact (step_read hm busy ph owns hd hop).2 e t hr
    · exact (step_rmw_read hm busy ph owns hd hop).2 e t hr
  · exact (step_rmw_read hm busy ph owns hd hop).1 x t
  · exact (step_read hm busy ph owns hd hop).1 x t
  · intro off s' h
    obtain ⟨busy, ph, owns⟩ := enabled_of_busRd hm h
    obtain idle | other | free := off
    · exact Bool.false_ne_true (idle.symm.trans busy)
    · exact other ph
    · exact free owns

/-! ### BUS_WR -/

section
variable {s : State} {p : Port} {i : Instr} {ms : List Move} {ans : Option WriteAnswer} {a w : Byte}
  {t : Option Target}

/-- BUS_WR writes the operand byte, or the latched byte with one bit replaced (R103). -/
theorem step_of_busWr_eq_finishWrite (hm : s.env.moves = .busWr p ans :: ms) (busy : s.port[p].busy = true)
    (ph : s.port[p].ph = .wr) (owns : Owns s p) (hd : decode s.port[p].cw = .ok i)
    (hop : currentOp s p = some (.write a w) ∨
      ∃ b v x, currentOp s p = some (.rmw a b v) ∧ s.port[p].tmp = some x ∧ w = merge x b v) :
    step s = finishWrite (commandOf i) p a w ans (withMoves s ms) := by
  have may : mayTransfer (withMoves s ms) p .wr = true := mayTransfer_iff.2 ⟨busy, ph, owns⟩
  rw [step_of_busWr hm busy hd, busWrite, if_pos may, commandOf_plan]
  have at_op {op : MicroOp} (h : currentOp s p = some op) :
      (plan (withMoves s ms).cfg p i)[(portAt (withMoves s ms) p).k.val]? = some op := (currentOp_eq hd).symm.trans h
  obtain hop | ⟨b, v, x, hop, tmp, rfl⟩ := hop
  · rw [at_op hop]
  · have tmp' : (portAt (withMoves s ms) p).tmp = some x := tmp
    rw [at_op hop]
    simp only [tmp']

theorem afterWrite_of_reply {r : WriteAnswer} (hw : writeReply s a w ans = (r, t)) :
    afterWrite (withMoves s ms) p a w ans = withMoves (didWrite s p a w r t) ms := by
  rw [afterWrite, writeReply_withMoves, hw]
  rfl

/-- A failed write ends the command with the transport's error (R103 (a), R105). -/
theorem finishWrite_of_err {e : ErrCode} (hw : writeReply s a w ans = (.err e, t)) (c : Command) :
    finishWrite c p a w ans (withMoves s ms) =
      .next (withMoves (answered (ended (didWrite s p a w (.err e) t) p) p s.port[p].cw 1 e) ms) := by
  rw [finishWrite, afterWrite_of_reply hw, writeReply_withMoves, hw]
  rfl

/-- A write that succeeded is followed by ADVANCE (R103 (b), R104). -/
theorem finishWrite_of_ok (hw : writeReply s a w ans = (.ok, t)) (hc : s.cfg.wf = true)
    (hk : s.port[p].k.val < (plan s.cfg p i).length) :
    ∃ s', AdvancedTo i p 0 (didWrite s p a w .ok t) s' ∧
      finishWrite (commandOf i) p a w ans (withMoves s ms) = .next (withMoves s' ms) := by
  obtain ⟨s', adv, next⟩ := advance_advancedTo (i := i) (p := p) (v := 0) (s := didWrite s p a w .ok t) (ms := ms) hc hk
  refine ⟨s', adv, ?_⟩
  rw [← next, finishWrite, afterWrite_of_reply hw, writeReply_withMoves, hw]

end

/-- Settles O13, by the answer to the transfer. -/
theorem busWriteStep : Obligations.BusWriteStep := by
  unfold Obligations.BusWriteStep
  intro s p ans ms hm hc
  refine ⟨fun busy ph owns i a w hd hop => ?_, fun off s' h => ?_⟩
  · have hk : s.port[p].k.val < (plan s.cfg p i).length := by
      rw [currentOp_eq hd] at hop
      obtain hop | ⟨b, v, x, hop, -⟩ := hop <;> exact (List.getElem?_eq_some_iff.1 hop).1
    rw [step_of_busWr_eq_finishWrite hm busy ph owns hd hop]
    exact ⟨fun e t hw => finishWrite_of_err hw _, fun t hw => finishWrite_of_ok hw hc hk⟩
  · obtain ⟨busy, ph, owns⟩ := enabled_of_busWr hm h
    obtain idle | other | free := off
    · exact Bool.false_ne_true (idle.symm.trans busy)
    · exact other ph
    · exact free owns

end Sys2Proof.Machine
end

section
/-! Progress (R106, R108, R109, R112): one port at a time is in a transaction, every command only moves forward, and
where a port is busy some busy port can move its command forward. -/

namespace Sys2Proof.Machine

open Sys2Proof.Claims

/-- Settles O39: two ports in a transaction both own the gate. -/
theorem atMostOneTransaction : Obligations.AtMostOneTransaction := by
  unfold Obligations.AtMostOneTransaction
  intro s hr p q busy ph
  have owner := (inv_of_reachable hr).busy_owner
  obtain ⟨locked, rfl⟩ := owner p ⟨busy, ph⟩
  exact ⟨⟨locked, rfl⟩, fun busy' ph' => (owner q ⟨busy', ph'⟩).2.symm⟩

/-! ### The steps a command has before it -/

theorem remainingSteps_congr {s s' : State} {p : Port} (h : portAt s' p = portAt s p) :
    remainingSteps s' p = remainingSteps s p := by
  rw [remainingSteps, h, remainingSteps]

section
variable {s : State} {p : Port}

theorem remainingSteps_of_idle (idle : (portAt s p).busy = false) : remainingSteps s p = 0 := by
  rw [remainingSteps, idle]

theorem remainingSteps_of_wait (busy : (portAt s p).busy = true) (ph : (portAt s p).ph = .wait) :
    remainingSteps s p = 3 * (3 - (portAt s p).k.val) := by
  rw [remainingSteps, busy, ph]

theorem remainingSteps_of_rd (busy : (portAt s p).busy = true) (ph : (portAt s p).ph = .rd) :
    remainingSteps s p = 3 * (3 - (portAt s p).k.val) - 1 := by
  rw [remainingSteps, busy, ph]

theorem remainingSteps_of_wr (busy : (portAt s p).busy = true) (ph : (portAt s p).ph = .wr) :
    remainingSteps s p = 3 * (3 - (portAt s p).k.val) - 2 := by
  rw [remainingSteps, busy, ph]

/-- A busy port has the steps of its present micro-operation before it, and those of the ones to come. -/
theorem remainingSteps_bounds (busy : (portAt s p).busy = true) :
    3 * (3 - (portAt s p).k.val) - 2 ≤ remainingSteps s p ∧ remainingSteps s p ≤ 3 * (3 - (portAt s p).k.val) := by
  cases ph : (portAt s p).ph with
  | wait => rw [remainingSteps_of_wait busy ph]; omega
  | rd => rw [remainingSteps_of_rd busy ph]; omega
  | wr => rw [remainingSteps_of_wr busy ph]; omega

theorem remainingSteps_pos (busy : (portAt s p).busy = true) : 0 < remainingSteps s p := by
  have bounds := remainingSteps_bounds busy
  omega

theorem remainingSteps_lt_of_started (busy : (portAt s p).busy = true) (ph : (portAt s p).ph ≠ .wait) :
    remainingSteps s p < 3 * (3 - (portAt s p).k.val) := by
  cases hph : (portAt s p).ph with
  | wait => exact absurd hph ph
  | rd => rw [remainingSteps_of_rd busy hph]; omega
  | wr => rw [remainingSteps_of_wr busy hph]; omega

end

/-! ### The step of a busy port -/

theorem nextIndex_val {k k' : Fin 3} (h : nextIndex k = some k') : k'.val = k.val + 1 := by
  unfold nextIndex at h
  split at h <;> cases h
  rfl

section
variable {p : Port} {s : State} (busy : (portAt s p).busy = true)
include busy

/-- A command that ends has no step before it (R104, R105). -/
theorem remainingSteps_makeIdle_lt {u s' : State} (h : s'.port = (makeIdle u p).port) :
    remainingSteps s' p < remainingSteps s p := by
  have self : portAt s' p = { portAt u p with busy := false, tmp := none } :=
    (portAt_congr _ _ h p).trans (portAt_setPort_self u p _)
  rw [remainingSteps_of_idle (by rw [self])]
  exact remainingSteps_pos busy

/-- ACQ starts the micro-operation (R101). -/
theorem remainingSteps_acquire_lt (u : State) (ph : (portAt s p).ph = .wait) (op : MicroOp) :
    remainingSteps (setPort u p { portAt s p with ph := firstPhase op }) p < remainingSteps s p := by
  have self := portAt_setPort_self u p { portAt s p with ph := firstPhase op }
  have started := remainingSteps_lt_of_started (by rw [self, ← busy]) (by rw [self]; exact firstPhase_ne_wait op)
  rw [self] at started
  rwa [remainingSteps_of_wait busy ph]

/-- The latch of the byte read leaves the write half (R102 (b)). -/
theorem remainingSteps_latchRead_lt {u : State} (hu : portAt u p = portAt s p) (ph : (portAt s p).ph = .rd) (b : Byte) :
    remainingSteps (latchRead u p b) p < remainingSteps s p := by
  have self : portAt (latchRead u p b) p = { portAt s p with tmp := some b, ph := .wr } := by
    rw [← hu]
    exact portAt_setPort_self u p _
  have latched := remainingSteps_of_wr (by rw [self, ← busy]) (by rw [self])
  rw [self] at latched
  rw [latched, remainingSteps_of_rd busy ph]
  dsimp only
  omega

/-- ADVANCE goes on to the next micro-operation or ends the command (R104). -/
theorem remainingSteps_advance_lt {c : Command} {v : Byte} {u s' : State} (hu : portAt u p = portAt s p)
    (h : advance c p v u = .next s') : remainingSteps s' p < remainingSteps s p := by
  obtain ⟨k, hk, -, rfl⟩ | ⟨-, rfl⟩ := advance_cases h
  · have self := portAt_setPort_self u p { portAt u p with k := k, ph := .wait, tmp := none }
    have waits := remainingSteps_of_wait (by rw [self, hu, ← busy]) (by rw [self])
    rw [self] at waits
    have next : k.val = (portAt s p).k.val + 1 := hu ▸ nextIndex_val hk
    obtain ⟨lower, -⟩ := remainingSteps_bounds busy
    rw [waits]
    dsimp only
    omega
  · exact remainingSteps_makeIdle_lt busy rfl

end

/-- A step of a busy port is a wait for the held gate, or leaves the command fewer steps (R101 to R105). -/
theorem waits_or_remainingSteps_lt {c : Command} {s s' : State} {p : Port} (mp : movingPort s = some p)
    (busy : (portAt s p).busy = true) (move : CommandMove c s s') :
    ((portAt s p).ph = .wait ∧ s.gate.locked = true ∧ s' = popMove s) ∨
      ((portAt s p).ph ≠ .wait ∨ s.gate.locked = false) ∧ remainingSteps s' p < remainingSteps s p := by
  have moves {q : Port} (hq : movingPort s = some q) : q = p := Option.some.inj (hq.symm.trans mp)
  have started {ph : Phase} (may : mayTransfer s p ph = true) (hph : ph ≠ .wait) :
      (portAt s p).ph ≠ .wait ∨ s.gate.locked = false := by
    obtain ⟨-, rfl, -⟩ := mayTransfer_iff.1 may
    exact .inl hph
  have notIdle {q : Port} {w : CmdWord} {ms : List Move} (hm : s.env.moves = .submit q w :: ms)
      (idle : (portAt s q).busy = false) : False := by
    rw [moves (movingPort_submit hm), busy] at idle
    cases idle
  cases move with
  | rejected q w k ms hm idle => exact (notIdle hm idle).elim
  | done q w ms hm idle => exact (notIdle hm idle).elim
  | accepted q w ms hm idle => exact (notIdle hm idle).elim
  | waited q ms hm _ ph held hs =>
    obtain rfl := moves (movingPort_acq hm)
    exact .inl ⟨ph, held, hs⟩
  | acquired q op ms hm _ ph free hop hs =>
    obtain rfl := moves (movingPort_acq hm)
    exact .inr ⟨.inr free, hs ▸ remainingSteps_acquire_lt busy _ ph op⟩
  | readFailed q ans op a e ms hm may hop reads reply hs =>
    obtain rfl := moves (movingPort_busRd hm)
    exact .inr ⟨started may (by decide), hs ▸ remainingSteps_makeIdle_lt busy rfl⟩
  | readLatched q ans a j v b ms hm may hop reply hs =>
    obtain rfl := moves (movingPort_busRd hm)
    obtain ⟨-, ph, -⟩ := mayTransfer_iff.1 may
    exact .inr ⟨started may (by decide), hs ▸ remainingSteps_latchRead_lt busy rfl ph b⟩
  | readDone q ans a b ms hm may hop reply hs =>
    obtain rfl := moves (movingPort_busRd hm)
    exact .inr ⟨started may (by decide),
      remainingSteps_advance_lt (u := releaseGate (afterRead (popMove s) q a ans)) busy rfl hs⟩
  | writeFailed q ans op a w e ms hm may hop writes reply hs =>
    obtain rfl := moves (movingPort_busWr hm)
    exact .inr ⟨started may (by decide), hs ▸ remainingSteps_makeIdle_lt busy rfl⟩
  | writeDone q ans op a w ms hm may hop writes reply hs =>
    obtain rfl := moves (movingPort_busWr hm)
    exact .inr ⟨started may (by decide),
      remainingSteps_advance_lt (u := releaseGate (afterWrite (popMove s) q a w ans)) busy rfl hs⟩

/-! ### The step of another port -/

/-- A step writes no port's record but that of the port that moves (R100 to R105). -/
theorem port_eq_of_not_moving {s s' : State} {x : Port} (h : step s = .next s') (mp : movingPort s ≠ some x) :
    s'.port[x] = s.port[x] := by
  cases stepKind_of_step h with
  | environment same cfg transfers wf =>
    obtain ⟨-, -, -, -, -, port, -⟩ := same
    exact portAt_congr _ _ port x
  | rejected p cw st v _ idle hs => rw [hs]; rfl
  | completed i p cw _ idle cls alive nil hs => exact portAt_congr _ _ (by simp [hs]) x
  | accepted i p cw mp' idle hd cls live ne hs =>
    exact port_eq_of_ne_moving mp' (fun y hy => hs ▸ portAt_setPort_ne _ p y _ hy) x mp
  | waited p _ busy hs => rw [hs]; rfl
  | acquired i p op mp' busy ph hd free hop hs =>
    exact port_eq_of_ne_moving mp' (fun y hy => hs ▸ portAt_setPort_ne _ p y _ hy) x mp
  | transferred i p op u mp' busy ph hd owns hop tr fin =>
    obtain ⟨-, -, -, port⟩ := transferEnd_frame (not_lifecycle_of_plan hop) fin
    exact port_eq_of_ne_moving mp' (fun y hy => (port y hy).trans (portAt_congr _ _ tr.port y)) x mp

/-- Settles O42: a step of the port itself waits or leaves fewer steps, and one of another port leaves the record. -/
theorem commandsOnlyMoveForward : Obligations.CommandsOnlyMoveForward := by
  unfold Obligations.CommandsOnlyMoveForward
  intro s s' p _ h busy
  have most : remainingSteps s p ≤ 9 := by
    obtain ⟨-, upper⟩ := remainingSteps_bounds busy
    omega
  refine ⟨most, ?_⟩
  have exclusive (ph : s.port[p].ph = .wait) (held : s.gate.locked = true) :
      ¬ (s.port[p].ph ≠ .wait ∨ s.gate.locked = false) :=
    not_or.2 ⟨not_not.2 ph, fun free => Bool.false_ne_true (free.symm.trans held)⟩
  by_cases mp : movingPort s = some p
  · obtain ⟨i, -, he⟩ := exec_of_busy_step mp busy h
    obtain ⟨ph, held, rfl⟩ | ⟨acts, lower⟩ := waits_or_remainingSteps_lt mp busy (exec_cases he)
    · exact ⟨le_rfl, fun _ _ _ => ⟨rfl, rfl, rfl, rfl, rfl, rfl, rfl⟩,
        fun _ acts => absurd acts (exclusive ph held), fun other => absurd mp other⟩
    · exact ⟨lower.le, fun _ ph held => absurd acts (exclusive ph held), fun _ _ => lower,
        fun other => absurd mp other⟩
  · have same := port_eq_of_not_moving h mp
    exact ⟨(remainingSteps_congr same).le, fun own => absurd own mp, fun own => absurd own mp, fun _ => same⟩

/-! ### Some port can step -/

/-- BUS_RD of the port in phase `RD` has an answer, whatever the environment gives (R102). -/
theorem exists_step_of_busRd {s : State} {p : Port} {ans : Option ReadAnswer} {ms : List Move} (h : Inv s)
    (hm : s.env.moves = .busRd p ans :: ms) (busy : (portAt s p).busy = true) (ph : (portAt s p).ph = .rd)
    (owns : Owns s p) : ∃ s', step s = .next s' := by
  obtain ⟨i, op, hd, hop, fits⟩ := op_of_busy h busy
  rw [ph] at fits
  replace hop : currentOp s p = some op := (currentOp_eq hd).trans hop
  obtain ⟨a, rfl⟩ | ⟨a, j, v, rfl⟩ := phaseFits_rd_op fits
  · obtain ⟨success, failure⟩ := step_read hm busy ph owns hd hop
    match hr : readReply s a ans with
    | (.ok x, t) =>
      obtain ⟨s', -, next⟩ := success x t hr
      exact ⟨_, next⟩
    | (.err e, t) => exact ⟨_, failure e t hr⟩
  · obtain ⟨success, failure⟩ := step_rmw_read hm busy ph owns hd hop
    match hr : readReply s a ans with
    | (.ok x, t) => exact ⟨_, success x t hr⟩
    | (.err e, t) => exact ⟨_, failure e t hr⟩

/-- BUS_WR of the port in phase `WR` has an answer, whatever the environment gives (R103). -/
theorem exists_step_of_busWr {s : State} {p : Port} {ans : Option WriteAnswer} {ms : List Move} (h : Inv s)
    (hm : s.env.moves = .busWr p ans :: ms) (busy : (portAt s p).busy = true) (ph : (portAt s p).ph = .wr)
    (owns : Owns s p) : ∃ s', step s = .next s' := by
  obtain ⟨i, op, hd, hop, fits⟩ := op_of_busy h busy
  rw [ph] at fits
  have hk := (List.getElem?_eq_some_iff.1 hop).1
  replace hop : currentOp s p = some op := (currentOp_eq hd).trans hop
  have byte : ∃ a w, currentOp s p = some (.write a w) ∨
      ∃ b v x, currentOp s p = some (.rmw a b v) ∧ s.port[p].tmp = some x ∧ w = merge x b v := by
    obtain ⟨a, w, rfl⟩ | ⟨a, j, v, b, rfl, tmp⟩ := phaseFits_wr_op fits
    · exact ⟨a, w, .inl hop⟩
    · exact ⟨a, merge b j v, .inr ⟨j, v, b, hop, tmp, rfl⟩⟩
  obtain ⟨a, w, hop⟩ := byte
  rw [step_of_busWr_eq_finishWrite hm busy ph owns hd hop]
  match hw : writeReply s a w ans with
  | (.ok, t) =>
    obtain ⟨s', -, next⟩ := finishWrite_of_ok (ms := ms) hw h.cfg_wf hk
    exact ⟨_, next⟩
  | (.err e, t) => exact ⟨_, finishWrite_of_err hw _⟩

/-- A step of a busy port that is no wait for the gate brings its command forward (R112). -/
theorem brings_forward {s : State} {p : Port} {m : Move} {ms : List Move} (h : Inv s)
    (busy : (portAt s p).busy = true) (mp : movingPort (withMoves s (m :: ms)) = some p)
    (acts : (portAt s p).ph ≠ .wait ∨ s.gate.locked = false) (next : ∃ s', step (withMoves s (m :: ms)) = .next s') :
    ∃ s', step (withMoves s (m :: ms)) = .next s' ∧ remainingSteps s' p < remainingSteps s p := by
  obtain ⟨s', next⟩ := next
  obtain ⟨-, -, -, lower, -⟩ := commandsOnlyMoveForward _ s' p (inv_withMoves h _) next busy
  exact ⟨s', next, lower mp acts⟩

/-- Settles O41: where the gate is held its owner can make its transfer, and where it is free any busy
port can take it. -/
theorem somePortCanAlwaysStep : Obligations.SomePortCanAlwaysStep := by
  unfold Obligations.SomePortCanAlwaysStep
  rintro s h ⟨p, busy⟩
  cases held : s.gate.locked with
  | true =>
    obtain ⟨busy', ph⟩ := h.owner_busy held
    refine ⟨s.gate.owner, busy', fun ms r w => ?_⟩
    cases hph : (portAt s s.gate.owner).ph with
    | wait => exact absurd hph ph
    | rd =>
      exact ⟨.busRd s.gate.owner r, by simp, brings_forward h busy' rfl (.inl ph)
        (exists_step_of_busRd (inv_withMoves h _) rfl busy' hph ⟨held, rfl⟩)⟩
    | wr =>
      exact ⟨.busWr s.gate.owner w, by simp, brings_forward h busy' rfl (.inl ph)
        (exists_step_of_busWr (inv_withMoves h _) rfl busy' hph ⟨held, rfl⟩)⟩
  | false =>
    refine ⟨p, busy, fun ms r w => ⟨.acq p, by simp, brings_forward h busy rfl (.inr held) ?_⟩⟩
    obtain ⟨i, op, hd, hop, -⟩ := op_of_busy h busy
    exact ⟨_, step_acquires hd ⟨busy, wait_of_free h held busy, rfl⟩ held hop⟩

end Sys2Proof.Machine
end

section
/-! The mode commands (R115 to R121): what they have in common, every step of one at any entry of its sequence, the run
of a whole one, and what a step of one leaves as it was. -/

namespace Sys2Proof.Machine

open Sys2Proof.Claims

/-! ### The commands that install a tag -/

section
variable {i : Instr} {m : Mode}

theorem not_lifecycle_of_modeCommand (h : IsModeCommand i) : ¬ IsLifecycle i := by
  obtain rfl | rfl | rfl | rfl | rfl := h <;> exact id

theorem modeCommand_of_installs (h : installs i = some m) : IsModeCommand i := by
  by_contra hn
  cases h.symm.trans ((installs_eq_none_iff i).2 hn)

variable (h : installs i = some m)
include h

/-- The mode commands are accepted on every pin port (R71). -/
theorem classAdmits_of_installs (q : Pin) : classAdmits (portClass i) (pinPort q) = true := by
  obtain rfl | rfl | rfl | rfl | rfl := modeCommand_of_installs h <;> exact classAdmits_pinPort q

/-- The mode commands are accepted in every tag (R115). -/
theorem check_of_installs (s : State) (p : Port) : (commandOf i).check s p = none := by
  obtain rfl | rfl | rfl | rfl | rfl := modeCommand_of_installs h <;> rfl

/-- The plan of a mode command is its sequence, one read-modify-write of the pin's bit for each entry (R115). -/
theorem plan_of_installs (c : Cfg) (q : Pin) :
    plan c (pinPort q) i = (modeSeqOf c m).map fun e => .rmw (addrOf c e.1 (bank q)) (bitpos q) e.2 := by
  rw [← intoPlan_pinPort]
  obtain rfl | rfl | rfl | rfl | rfl := modeCommand_of_installs h <;> cases h <;> rfl

theorem length_plan_of_installs (c : Cfg) (q : Pin) : (plan c (pinPort q) i).length = (modeSeqOf c m).length := by
  rw [plan_of_installs h, List.length_map]

theorem plan_getElem?_of_installs {c : Cfg} {k : Nat} {e : Family × Bool} (hk : (modeSeqOf c m)[k]? = some e)
    (q : Pin) : (plan c (pinPort q) i)[k]? = some (.rmw (addrOf c e.1 (bank q)) (bitpos q) e.2) := by
  rw [plan_of_installs h, List.getElem?_map, hk]
  rfl

theorem plan_ne_nil_of_installs {c : Cfg} (hc : c.wf = true) (q : Pin) : plan c (pinPort q) i ≠ [] :=
  plan_ne_nil_of_not_lifecycle hc (classAdmits_of_installs h q)
    (not_lifecycle_of_modeCommand (modeCommand_of_installs h))

/-- Under a well-formed configuration the sequence of a configured mode has an entry (R8 (c)). -/
theorem modeSeqOf_ne_nil_of_installs {c : Cfg} (hc : c.wf = true) : modeSeqOf c m ≠ [] := by
  intro nil
  exact plan_ne_nil_of_installs h hc 0 (by rw [plan_of_installs h, nil]; rfl)

end

/-! ### ADVANCE of a mode command (R104) -/

section
variable {i : Instr} {m : Mode} {q : Pin} {s s' : State} {v : Byte} {k : Fin 3}

theorem advancedTo_next {p : Port} (adv : AdvancedTo i p v s s') (hk : k.val = s.port[p].k.val + 1)
    (more : k.val < (plan s.cfg p i).length) : s' = waitingAgain s p k := by
  rw [AdvancedTo, if_pos (hk ▸ more)] at adv
  obtain ⟨k', hk', rfl⟩ := adv
  rw [Fin.ext (hk'.trans hk.symm)]

theorem advancedTo_installs (adv : AdvancedTo i (pinPort q) v s s') (h : installs i = some m)
    (last : (plan s.cfg (pinPort q) i).length ≤ s.port[pinPort q].k.val + 1) :
    s' = answered { ended s (pinPort q) with mode := s.mode.set q m } (pinPort q) s.port[pinPort q].cw 0 v := by
  rw [AdvancedTo, if_neg (by omega), h] at adv
  obtain ⟨x, hx, rfl⟩ := adv
  rw [Fin.castSucc_injective _ hx]

end

/-! ### Every step -/

/-- BUS_WR of a read-modify-write writes the latched byte with one bit replaced (R88, R103). -/
theorem exec_rmw_eq_finishWrite {i : Instr} {s : State} {p : Port} {ms : List Move} {ans : Option WriteAnswer}
    {k : Nat} {a b : Byte} {j : BitVec 3} {v : Bool} (hm : s.env.moves = .busWr p ans :: ms)
    (writes : AtPhase s p .wr k) (owns : Owns s p) (tmp : s.port[p].tmp = some b)
    (hop : (plan s.cfg p i)[k]? = some (.rmw a j v)) :
    exec i s = finishWrite (commandOf i) p a (merge b j v) ans (withMoves s ms) := by
  have may : mayTransfer (withMoves s ms) p .wr = true := mayTransfer_of_phase writes owns
  obtain ⟨-, -, rfl⟩ := writes
  have hop' : (plan (withMoves s ms).cfg p i)[(portAt (withMoves s ms) p).k.val]? = some (.rmw a j v) := hop
  have tmp' : (portAt (withMoves s ms) p).tmp = some b := tmp
  rw [exec_of_busWr hm, busWrite, if_pos may, commandOf_plan, hop']
  simp only [tmp']

/-- Every step of a command that installs a tag: SUBMIT, and each step at any entry of its sequence (R115). -/
theorem modeCommand_steps {i : Instr} {m : Mode} (h : installs i = some m) (q : Pin) : ModeCommand i q m := by
  constructor
  · intro s ms hm idle live hc
    have hplan := plan_ne_nil_of_installs h hc q
    exact exec_accepts hm idle (classAdmits_of_installs h q) live (fun a hi => hplan (hi ▸ rfl))
      (check_of_installs h _ _) hplan
  · intro s ms k f v hc hk
    have hop := plan_getElem?_of_installs h hk q
    refine ⟨?_, ?_, ?_⟩
    · rintro hm ⟨busy, wait, at_k⟩ free
      have at_k' : (portAt s (pinPort q)).k.val = k.val := at_k
      exact exec_acquires hm busy wait free (at_k' ▸ hop)
    · rintro s ms ans hm rfl reads owns
      exact exec_read_half hm reads owns hop
    · rintro ans b w hm writes owns tmp rfl
      rw [exec_rmw_eq_finishWrite hm writes owns tmp hop]
      obtain ⟨-, -, at_k⟩ := writes
      have hlt : s.port[pinPort q].k.val < (plan s.cfg (pinPort q) i).length :=
        at_k ▸ (List.getElem?_eq_some_iff.1 hop).1
      have hlen := length_plan_of_installs h s.cfg q
      refine ⟨fun t k' hk' more hw => ?_, fun t last hw => ?_, fun e t hw => finishWrite_of_err hw _⟩
      · obtain ⟨s', adv, next⟩ := finishWrite_of_ok (i := i) (ms := ms) hw hc hlt
        rw [next, advancedTo_next adv (hk'.trans (at_k ▸ rfl)) (hlen ▸ more)]
      · obtain ⟨s', adv, next⟩ := finishWrite_of_ok (i := i) (ms := ms) hw hc hlt
        rw [next, advancedTo_installs adv h (hlen.trans (at_k ▸ last.symm)).le]
        rfl

/-- Settles O20, by the steps of any command that installs a tag. -/
theorem intoInputModesInstallTag : Obligations.IntoInputModesInstallTag := by
  unfold Obligations.IntoInputModesInstallTag
  exact ⟨fun q => ⟨modeCommand_steps rfl q, modeCommand_steps rfl q, modeCommand_steps rfl q⟩, rfl, rfl, rfl⟩

/-- Settles O21, by the steps of any command that installs a tag. -/
theorem intoOutputModesInstallTag : Obligations.IntoOutputModesInstallTag := by
  unfold Obligations.IntoOutputModesInstallTag
  exact ⟨fun q => ⟨modeCommand_steps rfl q, modeCommand_steps rfl q⟩, rfl, rfl⟩

/-! ### The run of a whole command -/

/-- An entry of a mode sequence, with the byte its read returns. -/
abbrev Entry := (Family × Bool) × Byte

/-- The moves by which port `p` makes one read-modify-write, the read answered with `b`. -/
def rmwMoves (p : Port) (b : Byte) : List Move := [.acq p, .busRd p (some (.ok b)), .busWr p (some .ok)]

/-- The two transfers of one entry on pin `q` (R115). -/
def entryEvents (c : Cfg) (dev : DevAddr) (q : Pin) (e : Entry) : List Event :=
  [.busWtr (pinPort q) dev [addrOf c e.1.1 (bank q)] (.ok e.2),
   .busW (pinPort q) dev [addrOf c e.1.1 (bank q), merge e.2 (bitpos q) e.1.2] .ok]

/-- The command `cw` of pin `q` made the transfers of the entries `es`, the last at index `k`, installed `m` and was
answered `OK`. -/
def modeInstalled (s : State) (q : Pin) (cw : CmdWord) (m : Mode) (k : Fin 3) (es : List Entry) : State :=
  { s with
    mode := s.mode.set q m
    port := s.port.set (pinPort q) { busy := false, cw := cw, k := k, ph := .wr, tmp := none }
    gate := { locked := false, owner := pinPort q }
    hist := s.hist ++ es.flatMap (entryEvents s.cfg s.devaddr q) ++ [.resp (pinPort q) cw (0#4 ++ 0#8)]
    env  := { s.env with transfers := s.env.transfers + 2 * es.length } }

/-- Pin `q` has made both transfers of the entry `e`, before ADVANCE. -/
def entryWritten (s : State) (q : Pin) (e : Entry) : State :=
  rmwWritten s (pinPort q) (addrOf s.cfg e.1.1 (bank q)) e.2 (merge e.2 (bitpos q) e.1.2) s.env.target

/-- Pin `q` has made both transfers of the entry `e` and waits for the gate for micro-operation `k`. -/
def entryDone (s : State) (q : Pin) (e : Entry) (k : Fin 3) : State := waitingAgain (entryWritten s q e) (pinPort q) k

theorem entryWritten_port_self (s : State) (q : Pin) (e : Entry) :
    (entryWritten s q e).port[pinPort q] = { s.port[pinPort q] with ph := .wr, tmp := some e.2 } :=
  withPort_port_self s (pinPort q) _

theorem entryDone_port_self (s : State) (q : Pin) (e : Entry) (k : Fin 3) :
    (entryDone s q e k).port[pinPort q] = { s.port[pinPort q] with k := k, ph := .wait, tmp := none } := by
  rw [entryDone, waitingAgain, withPort_port_self, entryWritten_port_self]

theorem atPhase_entryDone {s : State} {q : Pin} (busy : s.port[pinPort q].busy = true) (e : Entry) (k : Fin 3) :
    AtPhase (entryDone s q e k) (pinPort q) .wait k.val := by
  rw [AtPhase, entryDone_port_self]
  exact ⟨busy, rfl, rfl⟩

/-- The last entry, completed. -/
theorem answered_entryWritten (s : State) (q : Pin) (m : Mode) (e : Entry) :
    answered { ended (entryWritten s q e) (pinPort q) with mode := s.mode.set q m } (pinPort q)
        s.port[pinPort q].cw 0 0 =
      modeInstalled s q s.port[pinPort q].cw m s.port[pinPort q].k [e] := by
  simp [answered, ended, withPort, entryWritten, rmwWritten, modeInstalled, entryEvents]

/-- The entries after the first, from where the first left the state. -/
theorem modeInstalled_entryDone (s : State) (q : Pin) (cw : CmdWord) (m : Mode) (e : Entry) (k l : Fin 3)
    (es : List Entry) : modeInstalled (entryDone s q e k) q cw m l es = modeInstalled s q cw m l (e :: es) := by
  have count : s.env.transfers + 2 + 2 * es.length = s.env.transfers + 2 * (es.length + 1) := by omega
  simp [modeInstalled, entryDone, waitingAgain, withPort, entryWritten, rmwWritten, entryEvents, count]

section
variable {i : Instr} {m : Mode} {q : Pin} {s : State} {k : Nat} {ms : List Move}
  (h : installs i = some m) (hd : decode s.port[pinPort q].cw = .ok i) (hc : s.cfg.wf = true)
  (waits : AtPhase s (pinPort q) .wait k) (free : s.gate.locked = false)
include h hd hc waits free

/-- One entry of the sequence, from its acquisition to ADVANCE. -/
theorem run_entry {e : Entry} (entry : (modeSeqOf s.cfg m)[k]? = some e.1) (n : Nat) :
    ∃ s', AdvancedTo i (pinPort q) 0 (entryWritten s q e) s' ∧
      Host.Core.run core (n + 3) (withMoves s (rmwMoves (pinPort q) e.2 ++ ms)) =
        Host.Core.run core n (withMoves s' ms) :=
  run_rmw hc hd waits free (plan_getElem?_of_installs h entry q) (readReply_some s _ _) (writeReply_some _ _ _ _) n

/-- The last entry: the tag is installed and the command answered. -/
theorem run_last_entry {e : Entry} (entry : (modeSeqOf s.cfg m)[k]? = some e.1)
    (last : (modeSeqOf s.cfg m).length = k + 1) (n : Nat) :
    Host.Core.run core (n + 3) (withMoves s (rmwMoves (pinPort q) e.2 ++ ms)) =
      Host.Core.run core n (withMoves (modeInstalled s q s.port[pinPort q].cw m s.port[pinPort q].k [e]) ms) := by
  obtain ⟨s', adv, run⟩ := run_entry (ms := ms) h hd hc waits free entry n
  obtain ⟨-, -, at_k⟩ := waits
  have done := advancedTo_installs adv h (by
    rw [length_plan_of_installs h, entryWritten_port_self, at_k]
    exact last.le)
  rw [entryWritten_port_self] at done
  rw [run, done.trans (answered_entryWritten s q m e)]

/-- An entry that is not the last: the port waits for the gate afresh. -/
theorem run_next_entry {e : Entry} (entry : (modeSeqOf s.cfg m)[k]? = some e.1)
    (more : k + 1 < (modeSeqOf s.cfg m).length) (n : Nat) :
    ∃ k' : Fin 3, k'.val = k + 1 ∧
      Host.Core.run core (n + 3) (withMoves s (rmwMoves (pinPort q) e.2 ++ ms)) =
        Host.Core.run core n (withMoves (entryDone s q e k') ms) := by
  have bound := plan_length_le i s.cfg (pinPort q) hc
  rw [length_plan_of_installs h] at bound
  obtain ⟨s', adv, run⟩ := run_entry (ms := ms) h hd hc waits free entry n
  obtain ⟨-, -, at_k⟩ := waits
  have next := advancedTo_next (k := ⟨k + 1, by omega⟩) adv (by rw [entryWritten_port_self, at_k]) (by
    rw [length_plan_of_installs h]
    exact more)
  exact ⟨_, rfl, next ▸ run⟩

/-- The rest of a mode command, from entry `k` of its sequence on, by induction over the entries to come. -/
theorem run_entries {es : List Entry} (rest : (modeSeqOf s.cfg m).drop k = es.map Prod.fst) (ne : es ≠ []) :
    ∃ l, Host.Core.run core (3 * es.length)
        (withMoves s ((es.flatMap fun e => rmwMoves (pinPort q) e.2) ++ ms)) =
      .next (withMoves (modeInstalled s q s.port[pinPort q].cw m l es) ms) := by
  induction es generalizing s k with
  | nil => exact absurd rfl ne
  | cons e es ih =>
    have entry : (modeSeqOf s.cfg m)[k]? = some e.1 := by
      rw [← Nat.add_zero k, ← List.getElem?_drop, rest]
      rfl
    have after : (modeSeqOf s.cfg m).drop (k + 1) = es.map Prod.fst := by
      rw [← List.tail_drop, rest]
      rfl
    have length : (modeSeqOf s.cfg m).length = k + 1 + es.length := by
      have lt := (List.getElem?_eq_some_iff.1 entry).1
      have left := congrArg List.length after
      rw [List.length_drop, List.length_map] at left
      omega
    rw [List.flatMap_cons, List.append_assoc]
    cases es with
    | nil => exact ⟨_, run_last_entry h hd hc waits free entry length 0⟩
    | cons e' es =>
      obtain ⟨k', hk', first⟩ := run_next_entry (ms := ((e' :: es).flatMap fun e => rmwMoves (pinPort q) e.2) ++ ms)
        h hd hc waits free entry (by rw [length]; simp) (3 * (e' :: es).length)
      obtain ⟨busy, -⟩ := waits
      have same : (entryDone s q e k').port[pinPort q].cw = s.port[pinPort q].cw := by rw [entryDone_port_self]
      obtain ⟨l, others⟩ := ih (s := entryDone s q e k') (by rw [same, hd]) hc (hk' ▸ atPhase_entryDone busy e k')
        rfl after (by simp)
      rw [same, modeInstalled_entryDone] at others
      exact ⟨l, first.trans others⟩

end

/-- Settles O29: SUBMIT, and then the run of all entries of the sequence. -/
theorem modeCommandRunsToResponse : Obligations.ModeCommandRunsToResponse := by
  unfold Obligations.ModeCommandRunsToResponse
  intro s q i m bs ms h hc idle live free length
  have first := (List.map_fst_zip length.ge).symm
  have second : ((modeSeqOf s.cfg m).zip bs).map Prod.snd = bs := List.map_snd_zip length.le
  have count : ((modeSeqOf s.cfg m).zip bs).length = bs.length := by rw [List.length_zip, length, Nat.min_self]
  have ne : (modeSeqOf s.cfg m).zip bs ≠ [] := fun nil =>
    modeSeqOf_ne_nil_of_installs h hc (first.trans (by rw [nil]; rfl))
  have moves : ((modeSeqOf s.cfg m).zip bs).flatMap (fun e => rmwMoves (pinPort q) e.2) =
      bs.flatMap (rmwMoves (pinPort q)) := by rw [← List.flatMap_map, second]
  obtain ⟨l, entries⟩ := run_entries (s := accepted s (pinPort q) (encode i)) (ms := ms) h
    (by rw [accepted_port_self, decodeEncodeRoundTrip]) hc (atPhase_accepted s (pinPort q) (encode i)) free first ne
  rw [moves, accepted_port_self] at entries
  have submitted := step_accepts (ms := bs.flatMap (rmwMoves (pinPort q)) ++ ms) (decodeEncodeRoundTrip i) idle
    (classAdmits_of_installs h q) live (check_of_installs h s _) (plan_ne_nil_of_installs h hc q)
  rw [Nat.add_comm 1, ← count]
  exact ⟨_, (run_of_step submitted).trans entries, rfl, rfl, rfl, rfl,
    congrArg PortState.busy (withPort_port_self _ _ _), rfl, rfl, rfl, rfl,
    fun p hp => (withPort_port_ne _ _ hp).trans (withPort_port_ne _ _ hp)⟩

/-! ### What a step leaves as it was -/

/-- Settles O32: the frame of the step, in which a tag that changes is that of the moving port's pin. -/
theorem modeCommandFrame : Obligations.ModeCommandFrame := by
  unfold Obligations.ModeCommandFrame
  intro s s' i hi hc hwf hd h
  obtain ⟨frame, tags⟩ := commandFrame_of_exec hd (not_lifecycle_of_modeCommand hi) hwf hc h
  refine ⟨fun q other => ?_, frame⟩
  by_contra hne
  obtain ⟨moves, -⟩ := tags q hne
  exact other moves

end Sys2Proof.Machine
end

section
/-! The pin data commands (R125 to R130): every step of `SET_HIGH`, `SET_LOW`, `IS_HIGH` and `IS_LOW` on every pin, and the
check of the tag. -/

namespace Sys2Proof.Machine

open Sys2Proof.Claims

/-- Settles O22: each plan is one read-modify-write of the pin's data bit, and the check passes in an output mode. -/
theorem setCommandsWriteDataBit : Obligations.SetCommandsWriteDataBit := by
  unfold Obligations.SetCommandsWriteDataBit
  intro q
  constructor
  · exact rmwCommand_of_plan (classAdmits_pinPort q) (fun _ => outputModeCheck_of_output)
      (fun c => rmwPlan_pinPort c .data true q) fun _ => rfl
  · exact rmwCommand_of_plan (classAdmits_pinPort q) (fun _ => outputModeCheck_of_output)
      (fun c => rmwPlan_pinPort c .data false q) fun _ => rfl

/-- SUBMIT of `SET_HIGH` or `SET_LOW` in a tag that is no output mode (R100 case 6, R130). -/
theorem exec_of_wrongMode {i : Instr} {s : State} {p : Port} {cw : CmdWord} {ms : List Move}
    (hm : s.env.moves = .submit p cw :: ms) (idle : s.port[p].busy = false) (live : s.live[p] = true)
    (wrong : WrongMode s p i) : exec i s = .next (withMoves (answered s p cw 2 0) ms) := by
  have check : (commandOf i).check (withMoves s ms) p = some .modeError :=
    (check_withMoves i s ms p).trans (check_of_wrongMode wrong)
  obtain ⟨hi, q, rfl, -, -⟩ := wrong
  have cls : classAdmits (commandOf i).cls (pinPort q) = true := by
    obtain rfl | rfl := hi <;> exact classAdmits_pinPort q
  have alive : (commandOf i).alive (withMoves s ms) (pinPort q) = true := by
    obtain rfl | rfl := hi <;> exact live
  calc
    exec i s = submit (commandOf i) (pinPort q) cw (withMoves s ms) := exec_of_submit hm
    _ = .next (raiseError (withMoves s ms) (pinPort q) cw .modeError) :=
      submit_of_check (s := withMoves s ms) idle cls alive check
    _ = .next (withMoves (answered s (pinPort q) cw 2 0) ms) := rfl

/-- Settles O23: each of the four tags is a wrong one. -/
theorem setCommandsCheckTheTag : Obligations.SetCommandsCheckTheTag := by
  unfold Obligations.SetCommandsCheckTheTag
  intro s q i ms hi hm idle live tag
  have noOutput : s.mode[q] ≠ .output ∧ s.mode[q] ≠ .outputOpenDrain := by
    obtain tag | tag | tag | tag := tag <;> simp [tag]
  exact exec_of_wrongMode hm idle live ⟨hi, q, rfl, noOutput⟩

/-- A command whose plan is one read is accepted in every tag and answers the value of R72 (R85, R127, R128, R137). -/
theorem readCommand_of_read_plan {i : Instr} {p : Port} {addr : Cfg → Byte} (cls : classAdmits (portClass i) p = true)
    (hplan : ∀ c, plan c p i = [.read (addr c)]) : ReadCommand i p addr (readValue i p) :=
  readCommand_of_plan cls
    (fun s => check_eq_none (by simp [hplan]) (not_wrongMode_of_read_plan (hplan s.cfg)))
    hplan
    (fun t => effect_eq_self (hplan t.cfg) (not_modeCommand_of_read_plan (hplan t.cfg)) t)
    (value_of_read_plan (hplan default))

/-- Settles O24: each plan is one read of the data register, and the value of R72 is the pin's bit or its complement. -/
theorem isCommandsReadDataBit : Obligations.IsCommandsReadDataBit := by
  unfold Obligations.IsCommandsReadDataBit
  intro q
  constructor
  · exact readCommand_of_read_plan (i := .isHigh) (classAdmits_pinPort q) fun c => readPlan_pinPort c .data q
  · exact readCommand_of_read_plan (i := .isLow) (classAdmits_pinPort q) fun c => readPlan_pinPort c .data q

end Sys2Proof.Machine
end

section
/-! The pin interrupt commands (R135 to R137): every step of `IRQ_ARM`, `IRQ_DISARM` and `IRQ_STATUS` on every pin. None of
them checks the tag. -/

namespace Sys2Proof.Machine

open Sys2Proof.Claims

/-- Settles O25: each plan is one read-modify-write of the pin's mask bit, to `CFG.IRQ_ARMED` or its complement. -/
theorem irqMaskCommandsAssignMaskBit : Obligations.IrqMaskCommandsAssignMaskBit := by
  unfold Obligations.IrqMaskCommandsAssignMaskBit
  intro q
  constructor
  · exact rmwCommand_of_plan (classAdmits_pinPort q) (fun _ _ => rfl)
      (fun c => rmwPlan_pinPort c .intMask c.irqArmed q) fun _ => rfl
  · exact rmwCommand_of_plan (classAdmits_pinPort q) (fun _ _ => rfl)
      (fun c => rmwPlan_pinPort c .intMask (!c.irqArmed) q) fun _ => rfl

/-- Settles O26: its plan is one read of the bank's status register, and the value of R72 is the byte read. -/
theorem irqStatusReturnsBankByte : Obligations.IrqStatusReturnsBankByte := by
  unfold Obligations.IrqStatusReturnsBankByte
  intro q
  exact readCommand_of_read_plan (i := .irqStatus) (classAdmits_pinPort q) fun c => readPlan_pinPort c .intStatus q

end Sys2Proof.Machine
end

section
/-! SUBMIT of the lifecycle commands (R145 to R147): one equation where the command completes, one where the address is
refused, and one where the port's class or the handle's liveness is. -/

namespace Sys2Proof.Machine

open Sys2Proof.Claims

theorem not_wrongPort_iff (p : Port) (i : Instr) : ¬ WrongPort p i ↔ classAdmits (commandOf i).cls p = true := by
  rw [wrongPort_iff, commandOf_cls, Bool.not_eq_false]

theorem not_wrongLiveness_iff (s : State) (ms : List Move) (p : Port) (i : Instr) :
    ¬ WrongLiveness s p i ↔ (commandOf i).alive (withMoves s ms) p = true := by
  rw [wrongLiveness_iff, alive_withMoves, Bool.not_eq_false]

section
variable {i : Instr} {s : State} {p : Port} {cw : CmdWord} {ms : List Move}
  (hm : s.env.moves = .submit p cw :: ms) (idle : s.port[p].busy = false)
include hm idle

/-- A command on a port of the wrong class, or whose handle has the wrong liveness, is `ILLEGAL` (R100 cases 3 and 4). -/
theorem exec_of_wrongPort_or_wrongLiveness (wrong : WrongPort p i ∨ WrongLiveness s p i) :
    exec i s = .next (withMoves (answered s p cw 4 0) ms) := by
  have idle' : (portAt (withMoves s ms) p).busy = false := idle
  rw [exec_of_submit hm]
  by_cases cls : WrongPort p i
  · exact submit_of_wrong_class idle' (by rwa [commandOf_cls, ← wrongPort_iff])
  · have dead : (commandOf i).alive (withMoves s ms) p = false := by
      rw [alive_withMoves, ← wrongLiveness_iff]
      exact wrong.resolve_left cls
    exact submit_of_not_alive idle' ((not_wrongPort_iff p i).1 cls) dead

variable (cls : ¬ WrongPort p i) (alive : ¬ WrongLiveness s p i)
include cls alive

/-- `NEW` of an address that is no 7-bit one is an `INIT_ERROR` (R100 case 5, R163). -/
theorem exec_of_badAddress (bad : BadAddress i) : exec i s = .next (withMoves (answered s p cw 3 0) ms) := by
  rw [not_wrongPort_iff] at cls
  rw [not_wrongLiveness_iff s ms] at alive
  rw [exec_of_submit hm]
  exact submit_of_check (s := withMoves s ms) idle cls alive (check_of_badAddress bad _ p)

/-- A lifecycle command that passes its checks has its effect and is answered `OK` in the same step (R100 case 7). -/
theorem exec_lifecycle_completes (hi : IsLifecycle i) (good : ¬ BadAddress i) :
    exec i s = .next (withMoves (answered (lifecycleEffect s p i) p cw 0 0) ms) := by
  rw [not_wrongPort_iff] at cls
  rw [not_wrongLiveness_iff s ms] at alive
  have nil : (commandOf i).plan s.cfg p = [] := (commandOf_plan i s.cfg p).trans (plan_of_lifecycle hi s.cfg p)
  rw [exec_of_submit hm,
    submit_of_nil (s := withMoves s ms) idle cls alive (check_of_lifecycle hi good _ p) nil,
    effect_of_lifecycle hi, lifecycleEffect_withMoves]
  rfl

end

/-- Settles O14, an equation of SUBMIT for each answer. -/
theorem newConstructsDevice : Obligations.NewConstructsDevice := by
  unfold Obligations.NewConstructsDevice
  intro s a p ms hm idle
  refine ⟨fun hp h0 good => ?_, fun hp h0 bad => ?_, exec_of_wrongPort_or_wrongLiveness (i := .new a) hm idle⟩
  · have legal : ¬ BadAddress (.new a) := ne_true_of_eq_false good
    exact exec_lifecycle_completes hm idle (not_not.2 hp) (not_not.2 h0) trivial legal
  · exact exec_of_badAddress hm idle (not_not.2 hp) (not_not.2 h0) bad

theorem splitEffect_live_pin (s : State) (p : Port) (q : Pin) : (splitEffect s p).live[pinPort q] = true := by
  have allLive : ∀ q : Pin, ((Vector.replicate 17 true).set portPD false)[pinPort q] = true := by decide
  exact allLive q

theorem splitEffect_mode_pin (s : State) (p : Port) (q : Pin) : (splitEffect s p).mode[q] = .unconfigured := by
  simp

/-- Settles O15: the effect is `splitEffect`, which writes the handles, the tags and the count alone. -/
theorem splitYieldsSixteenPins : Obligations.SplitYieldsSixteenPins := by
  unfold Obligations.SplitYieldsSixteenPins
  intro s p ms hm idle
  refine ⟨fun hp live => ?_, exec_of_wrongPort_or_wrongLiveness (i := .split) hm idle⟩
  have done := exec_lifecycle_completes (i := .split) hm idle (not_not.2 hp) (ne_false_of_eq_true live) trivial id
  exact ⟨_, done, fun q => ⟨splitEffect_live_pin s p q, splitEffect_mode_pin s p q⟩, splitLive_portPD, rfl, rfl⟩

/-- Settles O16: `DROP` is of every class, so the handle's liveness alone tells its two answers apart. -/
theorem dropEndsHandle : Obligations.DropEndsHandle := by
  unfold Obligations.DropEndsHandle
  intro s p ms hm idle
  exact ⟨fun live => exec_lifecycle_completes hm idle id (ne_false_of_eq_true live) trivial id,
    fun dead => exec_of_wrongPort_or_wrongLiveness hm idle (.inr dead)⟩

end Sys2Proof.Machine
end

section
/-! The lives of the handles: which step makes a dead one live (R147, R149), and the end of the lifetime (R148, R191). -/

namespace Sys2Proof.Machine

open Sys2Proof.Claims

/-! ### The steps that change a handle -/

theorem effect_live_of_not_lifecycle {i : Instr} (hn : ¬ IsLifecycle i) (s : State) (p : Port) :
    ((commandOf i).effect s p).live = s.live := by
  rw [effect_of_not_lifecycle hn]
  cases installs i <;> simp

theorem advance_live {i : Instr} {p : Port} {v : Byte} {s s' : State} (hn : ¬ IsLifecycle i)
    (h : advance (commandOf i) p v s = .next s') : s'.live = s.live := by
  obtain ⟨k, -, -, rfl⟩ | ⟨-, rfl⟩ := advance_cases h
  · rfl
  · exact effect_live_of_not_lifecycle hn s p

/-- A step that changes a handle is SUBMIT of a lifecycle command that completes (R100 case 7, R113). -/
theorem step_live_cases {s s' : State} (h : step s = .next s') :
    s'.live = s.live ∨ ∃ i p cw ms, IsLifecycle i ∧ s.env.moves = .submit p cw :: ms ∧ s.port[p].busy = false ∧
      decode cw = .ok i ∧ ¬ WrongPort p i ∧ ¬ WrongLiveness s p i ∧
      s' = withMoves (answered (lifecycleEffect s p i) p cw 0 0) ms := by
  cases step_cases h with
  | notACommand p cw ms e hm idle hd hs => exact .inl (hs ▸ rfl)
  | none hm hs => exact .inl (hs ▸ rfl)
  | target f hs wf => exact .inl (hs ▸ rfl)
  | command i p cw hf hd move =>
    cases move with
    | done q w ms hm idle cls alive check nil hs =>
      by_cases hi : IsLifecycle i
      · rw [popMove_eq_withMoves hm] at alive hs
        rw [effect_of_lifecycle hi, lifecycleEffect_withMoves] at hs
        rw [← not_wrongLiveness_iff] at alive
        rw [← not_wrongPort_iff] at cls
        exact .inr ⟨i, q, w, ms, hi, hm, idle, decode_submitted hf hd hm, cls, alive, hs⟩
      · exact .inl (hs ▸ effect_live_of_not_lifecycle hi (popMove s) q)
    | rejected q w k ms hm idle why hs => exact .inl (hs ▸ raiseError_live (popMove s) q w k)
    | accepted _ _ _ _ _ _ _ _ _ hs | waited _ _ _ _ _ _ hs | acquired _ _ _ _ _ _ _ _ hs
    | readFailed _ _ _ _ _ _ _ _ _ _ _ hs | readLatched _ _ _ _ _ _ _ _ _ _ _ hs
    | writeFailed _ _ _ _ _ _ _ _ _ _ _ _ hs => exact .inl (hs ▸ rfl)
    | readDone q ans a b ms hm may hop reply hs =>
      rw [commandOf_plan] at hop
      exact .inl (advance_live (s := releaseGate (afterRead (popMove s) q a ans)) (not_lifecycle_of_plan hop) hs)
    | writeDone q ans op a w ms hm may hop writes reply hs =>
      rw [commandOf_plan] at hop
      exact .inl (advance_live (s := releaseGate (afterWrite (popMove s) q a w ans)) (not_lifecycle_of_plan hop) hs)

/-! ### The states with no handle -/

theorem dead_of_refcnt_zero {s : State} (h : Inv s) (h0 : s.refcnt = 0) (p : Port) : isLive s p = false := by
  by_contra live
  exact refcnt_ne_zero_of_live h (by simpa using live) h0

theorem idle_of_dead {s : State} {p : Port} (h : Inv s) (dead : isLive s p = false) : (portAt s p).busy = false := by
  by_contra busy
  have live := h.busy_live p (by simpa using busy)
  rw [dead] at live
  cases live

theorem quiescent_of_refcnt_zero {s : State} (h : Inv s) (h0 : s.refcnt = 0) : Quiescent s :=
  fun p => idle_of_dead h (dead_of_refcnt_zero h h0 p)

/-! ### A handle that becomes live -/

/-- `NEW` makes no handle live but the device's (R145). -/
theorem eq_portPD_of_newEffect_live {a : Byte} {s : State} {x p : Port} (dead : s.live[p] = false)
    (live : (newEffect a s x).live[p] = true) : p = portPD := by
  by_contra hp
  have kept : (newEffect a s x).live[p] = s.live[p] := isLive_setLive_ne s portPD p true hp
  rw [kept, dead] at live
  cases live

/-- `DROP` makes no handle live (R147). -/
theorem dropEffect_live_of_dead {s : State} {p : Port} (x : Port) (dead : s.live[p] = false) :
    (dropEffect s x).live[p] = false := by
  by_cases hp : p = x
  · subst hp
    exact isLive_setLive_self s p false
  · rw [dropEffect_live_ne s hp, dead]

/-- Settles O45: of the steps that change a handle, `NEW` and `SPLIT` can make one live and `DROP` cannot. -/
theorem handlesAreNeverReissued : Obligations.HandlesAreNeverReissued := by
  unfold Obligations.HandlesAreNeverReissued
  intro s s' p h hs dead live
  obtain same | ⟨i, x, cw, ms, hi, hm, idle, hd, cls, alive, rfl⟩ := step_live_cases hs
  · rw [same, dead] at live
    cases live
  cases i with
  | new a =>
    obtain rfl : x = 16 := not_not.1 cls
    have h0 : s.refcnt = 0 := not_not.1 alive
    have pins : ∀ q : Pin, (newEffect a s 16).live[pinPort q] = false := fun q =>
      (newEffect_pin_live a s 16 q).trans (dead_of_refcnt_zero h h0 (pinPort q))
    exact ⟨cw, ms, hm, idle, .inl ⟨a, hd, eq_portPD_of_newEffect_live (a := a) (x := 16) dead live, h0, rfl, pins⟩⟩
  | split =>
    obtain rfl : x = 16 := not_not.1 cls
    have device : s.live[(16 : Port)] = true := eq_true_of_ne_false alive
    have hp : p ≠ 16 := by
      rintro rfl
      rw [device] at dead
      cases dead
    exact ⟨cw, ms, hm, idle, .inr ⟨hd, hp, device, splitLive_portPD, rfl, fun q =>
      ⟨h.device_alone device q, splitEffect_mode_pin s 16 q⟩⟩⟩
  | drop =>
    have still : (dropEffect s x).live[p] = false := dropEffect_live_of_dead x dead
    exact absurd live (ne_true_of_eq_false still)
  | _ => cases hi

/-! ### The end of the lifetime -/

/-- Where no handle counts, `NEW` of a 7-bit address is accepted (R145, R148). -/
theorem step_new_of_refcnt_zero {s : State} {a : Byte} {ms : List Move} (h : Inv s) (h0 : s.refcnt = 0)
    (hm : s.env.moves = .submit 16 (encode (.new a)) :: ms) (good : a.getLsbD 7 = false) :
    step s = .next (withMoves (answered (lifecycleEffect s 16 (.new a)) 16 (encode (.new a)) 0 0) ms) := by
  have idle : s.port[(16 : Port)].busy = false := quiescent_of_refcnt_zero h h0 16
  obtain ⟨constructs, -, -⟩ := newConstructsDevice s a 16 ms hm idle
  rw [stepRunsDecodedInstruction.1 s 16 _ ms _ hm idle (decodeEncodeRoundTrip (.new a))]
  exact constructs rfl h0 good

/-- Settles O51: the step of `DROP` keeps the invariant, under which a count of 0 leaves no handle, and so no busy port and
no owner of the gate. -/
theorem lastDropEndsTheLifetime : Obligations.LastDropEndsTheLifetime := by
  unfold Obligations.LastDropEndsTheLifetime
  intro s p a ms h one live idle hm good
  obtain ⟨-, drops⟩ := portClassIsEnforced
  have dropped := drops s p _ hm idle live
  have ht := inv_step h dropped
  have h0 : (lifecycleEffect s p .drop).refcnt = 0 := by simp [lifecycleEffect, one]
  have quiet := quiescent_of_refcnt_zero ht h0
  exact ⟨_, _, dropped, h0, fun x => ⟨dead_of_refcnt_zero ht h0 x, quiet x⟩, free_of_quiescent ht quiet,
    step_new_of_refcnt_zero ht h0 rfl good, rfl, isLive_setLive_self _ portPD true, rfl⟩

end Sys2Proof.Machine
end

section
/-! The errors (R160 to R165, R169): a step whose answer is not `OK` ends in `raiseError`, right after SUBMIT took its
move or right after a transfer. -/

namespace Sys2Proof.Machine

open Sys2Proof.Claims

/-! ### What an error answers and leaves -/

theorem statusCode_injective : Function.Injective statusCode := by
  intro st st'
  cases st <;> cases st' <;> simp [statusCode]

/-- An answer says its port, its word and its status (R72). -/
theorem answer_inj {p q : Port} {cw w : CmdWord} {st st' : Status} {v v' : Byte}
    (h : some (Event.resp p cw (responseWord st v)) = some (.resp q w (responseWord st' v'))) :
    p = q ∧ cw = w ∧ st = st' := by
  injection h with h
  injection h with hp hcw hrw
  obtain ⟨layout, -⟩ := responseWordLayout
  have code : statusCode st = statusCode st' := by rw [← (layout st v).1, hrw, (layout st' v').1]
  exact ⟨hp, hcw, statusCode_injective code⟩

theorem raiseError_last (s : State) (p : Port) (cw : CmdWord) (k : ErrorKind) :
    (raiseError s p cw k).hist.getLast? = some (.resp p cw (responseWord (errorStatus k) (errorValue k))) := by
  cases k <;> exact List.getLast?_concat

/-- The errors of SUBMIT are answered with the value 0, and change nothing else (R162 to R164, R169). -/
theorem raiseError_eq_answered (s : State) (p : Port) (cw : CmdWord) {k : ErrorKind}
    (hk : errorStatus k ≠ .busError) :
    raiseError s p cw k = answered s p cw (statusCode (errorStatus k)) 0 := by
  cases k with
  | busError e => exact absurd rfl hk
  | modeError => rfl
  | initError => rfl
  | illegal => rfl

/-- A bus error frees the gate and makes its own port idle with no byte latched (R169). -/
theorem raiseError_busError_frees (s : State) (p : Port) (cw : CmdWord) (e : ErrCode) :
    (raiseError s p cw (.busError e)).gate.locked = false ∧
      portAt (raiseError s p cw (.busError e)) p = { portAt s p with busy := false, tmp := none } ∧
      ∀ x, x ≠ p → portAt (raiseError s p cw (.busError e)) x = portAt s x :=
  ⟨rfl, portAt_setPort_self (releaseGate s) p _, fun x hx => portAt_setPort_ne (releaseGate s) p x _ hx⟩

/-! ### How a step ends -/

/-- How a step ends, by the event it records last. -/
inductive StepEnd (s s' : State) : Prop where
  | silent (hist : s'.hist = s.hist)
  | transfer (e : Event) (bus : isBus e = true) (last : s'.hist.getLast? = some e)
  | answeredOk (p : Port) (cw : CmdWord) (v : Byte) (last : s'.hist.getLast? = some (.resp p cw (responseWord .ok v)))
  /-- SUBMIT answered with an error (R100 cases 1 to 6). -/
  | rejected (p : Port) (cw : CmdWord) (k : ErrorKind) (hk : errorStatus k ≠ .busError)
      (hs : s' = raiseError (popMove s) p cw k)
  /-- A transfer that failed (R102 (a), R103 (a)). -/
  | failed (p : Port) (cw : CmdWord) (e : ErrCode) (u : State) (tr : Transferred s p u)
      (hs : s' = raiseError u p cw (.busError e))

theorem stepEnd_of_transferEnd {s u s' : State} {i : Instr} {p : Port} (tr : Transferred s p u)
    (fin : TransferEnd (commandOf i) p u s') : StepEnd s s' := by
  obtain ⟨ev, hist, bus, -⟩ := tr.event
  have last : u.hist.getLast? = some ev := hist ▸ List.getLast?_concat
  cases fin with
  | failed e hs => exact .failed p _ e u tr hs
  | latched a j v b hop hs => exact .transfer ev bus (hs ▸ last)
  | advanced v hs =>
    obtain ⟨k, -, -, rfl⟩ | ⟨-, rfl⟩ := advance_cases hs
    · exact .transfer ev bus last
    · exact .answeredOk p _ v List.getLast?_concat

theorem stepEnd_of_command {s s' : State} {i : Instr} (move : CommandMove (commandOf i) s s') : StepEnd s s' := by
  cases move with
  | rejected p cw k ms hm idle why hs =>
    refine .rejected p cw k (fun bus => ?_) hs
    obtain rfl | ⟨-, -, check⟩ := why
    · cases bus
    · cases k with
      | busError e => exact check_ne_busError i (popMove s) p e check
      | modeError | initError | illegal => cases bus
  | done p cw ms hm idle cls alive check nil hs => exact .answeredOk p cw 0 (hs ▸ List.getLast?_concat)
  | accepted p cw ms hm idle cls alive check ne hs => exact .silent (hs ▸ rfl)
  | waited p ms hm busy ph held hs => exact .silent (hs ▸ rfl)
  | acquired p op ms hm busy ph free hop hs => exact .silent (hs ▸ rfl)
  | readFailed p ans op a e ms hm may hop reads reply hs => exact .failed p _ e _ (transferred_afterRead s p a ans) hs
  | readLatched p ans a j v b ms hm may hop reply hs =>
    exact stepEnd_of_transferEnd (transferred_afterRead s p a ans) (.latched a j v b hop hs)
  | readDone p ans a b ms hm may hop reply hs =>
    exact stepEnd_of_transferEnd (transferred_afterRead s p a ans) (.advanced _ hs)
  | writeFailed p ans op a w e ms hm may hop writes reply hs =>
    exact .failed p _ e _ (transferred_afterWrite s p a w ans) hs
  | writeDone p ans op a w ms hm may hop writes reply hs =>
    exact stepEnd_of_transferEnd (transferred_afterWrite s p a w ans) (.advanced _ hs)

theorem stepEnd_of_step {s s' : State} (h : step s = .next s') : StepEnd s s' := by
  cases step_cases h with
  | command i p cw hf hd move => exact stepEnd_of_command move
  | notACommand p cw ms e hm idle hd hs => exact .rejected p cw .illegal (by decide) hs
  | none hm hs => exact .silent (hs ▸ rfl)
  | target f hs wf => exact .silent (hs ▸ rfl)

/-- Settles O50, by the ways a step ends: its last event tells the two that raise an error from the rest, and says which
error it is. -/
theorem errorsChangeNothingElse : Obligations.ErrorsChangeNothingElse := by
  unfold Obligations.ErrorsChangeNothingElse
  intro s s' p cw st v _ hstep answer grows ne
  cases stepEnd_of_step hstep with
  | silent hist => exact absurd grows (by simp [hist])
  | transfer e bus last =>
    cases last.symm.trans answer
    cases bus
  | answeredOk q w r last =>
    obtain ⟨-, -, ok⟩ := answer_inj (last.symm.trans answer)
    exact absurd ok.symm ne
  | rejected q w k hk hs =>
    subst hs
    obtain ⟨rfl, rfl, rfl⟩ := answer_inj ((raiseError_last (popMove s) q w k).symm.trans answer)
    exact ⟨raiseError_live _ _ _ _, raiseError_refcnt _ _ _ _, raiseError_devaddr _ _ _ _, raiseError_mode _ _ _ _,
      fun _ => raiseError_eq_answered (popMove s) q w hk, fun bus => absurd bus hk⟩
  | failed q w e u tr hs =>
    subst hs
    obtain ⟨rfl, rfl, rfl⟩ := answer_inj ((raiseError_last u q w (.busError e)).symm.trans answer)
    obtain ⟨free, idle, others⟩ := raiseError_busError_frees u q w e
    exact ⟨tr.live, tr.refcnt, tr.devaddr, tr.mode, fun bus => absurd rfl bus, fun _ =>
      ⟨free, congrArg PortState.busy idle, congrArg PortState.tmp idle,
        fun x hx => (others x hx).trans (portAt_congr _ _ tr.port x)⟩⟩

end Sys2Proof.Machine
end

section
/-! Where a word placed as the next command runs (log 15), and what SUBMIT answers in the reset state (R190). -/

namespace Sys2Proof.Machine

open Sys2Proof.Claims

/-! ### The word of `withFetchWord` -/

/-- The opcodes of the pin groups are those with `OP[4] = 1` (R68, R71). -/
theorem opcodeOf_getLsbD_four (i : Instr) : (opcodeOf i).getLsbD 4 = true ↔ portClass i = .pin := by
  cases i <;> simp [opcodeOf, portClass]

theorem placingPort_encode (i : Instr) : placingPort (encode i) = if portClass i = .pin then 0 else 16 := by
  have opcode : fieldOp (encode i) = opcodeOf i := (Laws.EncodeFits.statement_of i).1
  simp only [placingPort, opcode, opcodeOf_getLsbD_four]

theorem withFetchWord_toNat (s : State) (cw : CmdWord) :
    s.withFetchWord 24 cw.toNat = withMoves s (.submit (placingPort cw) cw :: s.env.moves) := by
  have same : BitVec.ofNat 24 (cw.toNat % 2 ^ 24) = cw := by
    rw [Nat.mod_eq_of_lt cw.isLt, BitVec.ofNat_toNat, BitVec.setWidth_eq]
  simp only [State.withFetchWord, same, withMoves]

/-- Settles O9: the word is submitted on the port of its opcode's group, which is the port of its class, and decodes to
its command. -/
theorem placedWordRunsNext : Obligations.PlacedWordRunsNext := by
  unfold Obligations.PlacedWordRunsNext
  rintro s i p rfl idle
  rw [withFetchWord_toNat, placingPort_encode]
  exact stepRunsDecodedInstruction.1 _ _ _ _ i rfl idle (decodeEncodeRoundTrip i)

/-! ### SUBMIT with no device -/

/-- Where the port's handle is dead, every command but `NEW` on `PD` fails its check of class or liveness (R100 cases 3 and
4). -/
theorem wrongPort_or_wrongLiveness_of_dead {s : State} {p : Port} {i : Instr} (dead : s.live[p] = false)
    (other : p ≠ 16 ∨ ∀ a, i ≠ .new a) : WrongPort p i ∨ WrongLiveness s p i := by
  cases i with
  | new a => exact .inl (other.resolve_right fun none => none a rfl)
  | _ => exact .inr dead

/-- Settles O34: with no device `NEW` on `PD` passes its check of liveness, and no other command does; a word that is no
command is answered as one that fails it. -/
theorem resetAcceptsOnlyNew : Obligations.ResetAcceptsOnlyNew := by
  unfold Obligations.ResetAcceptsOnlyNew
  intro c e p cw ms s hs _
  obtain ⟨values, h0, -, -, -⟩ := resetValuesOfTheSpec
  obtain ⟨resetDead, resetIdle, -⟩ := values p
  have hm : s.env.moves = .submit p cw :: ms := by rw [hs]; rfl
  have idle : s.port[p].busy = false := by rw [hs]; exact resetIdle
  have dead : s.live[p] = false := by rw [hs]; exact resetDead
  have noRefs : s.refcnt = 0 := by rw [hs]; exact h0
  have noEvents : s.hist = [] := by rw [hs]; rfl
  have runs {i : Instr} (hd : decode cw = .ok i) : step s = exec i s :=
    stepRunsDecodedInstruction.1 s p cw ms i hm idle hd
  refine ⟨fun a hp hd good => ?_, fun a hp hd bad => ?_, fun other => ?_⟩
  · have legal : ¬ BadAddress (.new a) := ne_true_of_eq_false good
    have done := exec_lifecycle_completes (i := .new a) hm idle (not_not.2 hp) (not_not.2 noRefs) trivial legal
    exact ⟨_, (runs hd).trans done, congrArg (· ++ [_]) noEvents, rfl, isLive_setLive_self _ portPD true, rfl⟩
  · exact (runs hd).trans (exec_of_badAddress (i := .new a) hm idle (not_not.2 hp) (not_not.2 noRefs) bad)
  · cases hd : decode cw with
    | error err => exact step_of_undecodable hm idle hd
    | ok i =>
      have notNew : p ≠ 16 ∨ ∀ a, i ≠ .new a := other.imp_right fun none a ha => none a (ha ▸ hd)
      exact (runs hd).trans
        (exec_of_wrongPort_or_wrongLiveness hm idle (wrongPort_or_wrongLiveness_of_dead dead notNew))

end Sys2Proof.Machine
end
